-- ==== Sys2Proof/Word.lean ====
section
/-! DEFINITION. The plainest types: a byte and a sequence of bytes of fixed length (R11, R13). -/

namespace Sys2Proof

/-- A byte: a natural number in `[0, 256)` (R13). -/
abbrev Byte := BitVec 8

/-- `byte[n]`, a sequence of `n` bytes indexed `0` to `n - 1` (R13). -/
abbrev Bytes (n : Nat) := Vector Byte n

end Sys2Proof
end

