-- ==== Sys2Proof/Config.lean ====
section
/-! DEFINITION. What an implementation fixes: the named parameters of R8, the block cipher of R9, and the values
the spec leaves open (free values: constants without a body, so that no proof can learn what they are). -/

namespace Sys2Proof.Config

/-- `BUS_W`: bits of one register word on the host port (R8). -/
abbrev busW : Nat := 32
/-- Bits of a word index on the host port (R46). -/
abbrev indexW : Nat := 6
/-- `RADIX_W` (R8). -/
abbrev radixW : Nat := 64
/-- `WIDTH_W` (R8). -/
abbrev widthW : Nat := 8
/-- `ROUNDS_W` (R8). -/
abbrev roundsW : Nat := 32
/-- `KEYLEN_W` (R8). -/
abbrev keylenW : Nat := 6
/-- `KEY_MAX`: bytes in `KEY` and `aKEY` (R8). -/
abbrev keyMax : Nat := 32
/-- `KEYLENS`: the key lengths the engine accepts (R8, R92). -/
abbrev keylens : List Nat := [16, 24, 32]
/-- `CB`: cipher block size in bytes (R8, R110). -/
abbrev cb : Nat := 16
/-- `FIELD_W`: bits of each of the two packed fields (R8). -/
abbrev fieldW : Nat := 64
/-- `WORK_W` (R8). -/
abbrev workW : Nat := 64
/-- `MOD_W` (R8). -/
abbrev modW : Nat := 65
/-- `MSG_W` (R8). -/
abbrev msgW : Nat := 128
/-- `BLK_W`, the width of `BLKSZ`, `T_BLK` and `ACC` (R8, R43). -/
abbrev blkW : Nat := 129
/-- Width of `RAW` (R42). -/
abbrev rawW : Nat := 128
/-- Width of `ERR` and of `LASTOP` (R32, R33). -/
abbrev codeW : Nat := 4
/-- `MOD_MAX`: the capacity limit (R8, R97). -/
abbrev modMax : Nat := 2 ^ 64

end Sys2Proof.Config

namespace Sys2Proof

/-- One word on the host port (R46). -/
abbrev BusWord := BitVec Config.busW

/-- The number of a word of the host register space (R46). -/
abbrev WordIndex := BitVec Config.indexW

/-- One cipher block (R8, R60). -/
abbrev Block := Bytes Config.cb

/-- The type of a block cipher: a total function of key bytes and a block (R9). -/
abbrev Cipher := List Byte → Block → Block

end Sys2Proof

namespace Sys2Proof.Config

/-- `BlockEncrypt`, the external cipher: a total function and nothing more (R9). A free value: it has no body, so a
claim holds for every cipher (assumption 1). -/
opaque blockEncrypt : Cipher

/-- What a register of `w` bits holds after a write of `v` that does not fit it. The spec's rules only write values
that fit (R14); a free value (assumption 5). -/
opaque openFit : (w : Nat) → (v : Nat) → BitVec w

/-- `a mod 0`. The spec defines `mod` for a modulus of at least 1 (R12); a free value (assumption 5). -/
opaque openMod : (a : Nat) → Nat

/-- `a div 0`. The spec defines `div` for a divisor of at least 1 (R12); a free value (assumption 5). -/
opaque openDiv : (a : Nat) → Nat

/-- `(w - d) mod 0`, as `openMod`; a free value (assumption 5). -/
opaque openModSub : (w : Nat) → (d : Nat) → Nat

/-- `a - b` with `a < b`. The spec uses `-` only where `a` is at least `b` (R12); a free value (assumption 5). -/
opaque openSub : (a : Nat) → (b : Nat) → Nat

end Sys2Proof.Config
end

