-- ==== Sys2Proof/Machine/Bits.lean ====
section
/-! DEFINITION. Bit fields, words and bytes: the slices of R11, the little-endian encodings of R13 and the word order
of R54. -/

namespace Sys2Proof.Machine

/-- Byte `i` of a value: `v[8i+7 : 8i]` (R11, R13). -/
def byteOf (v : Nat) (i : Nat) : Byte :=
  BitVec.ofNat 8 (v / 2 ^ (8 * i))

/-- `LE_n(v)`: byte `i` is `v[8i+7 : 8i]` (R13). -/
def leBytes (n : Nat) (v : Nat) : Bytes n :=
  Vector.ofFn fun i => byteOf v i.val

/-- `FromLE(b)`: the sum over `i` of `b[i] * 2^(8i)` (R13). -/
def fromLE : List Byte → Nat
  | [] => 0
  | b :: bs => b.toNat + 256 * fromLE bs

/-- Word `j` of a register, `v[32j+31 : 32j]`, with zeros above the register's last bit (R48, R54). -/
def wordOf {n : Nat} (v : BitVec n) (j : Nat) : BusWord :=
  v.extractLsb' (Config.busW * j) Config.busW

/-- `v` with the bits that word `j` maps replaced by those of `d`; bits of `d` beyond the register's width are
ignored (R49, R53). -/
def putWord {n : Nat} (v : BitVec n) (j : Nat) (d : BusWord) : BitVec n :=
  let mask : BitVec n := (BitVec.allOnes Config.busW).setWidth n <<< (Config.busW * j)
  (v &&& ~~~mask) ||| ((d.setWidth n) <<< (Config.busW * j))

/-- The key bytes with word `j` replaced: `KEY[4j + i]` becomes bits `8i+7 : 8i` of `d` (R55). -/
def putKeyWord (k : Bytes Config.keyMax) (j : Nat) (d : BusWord) : Bytes Config.keyMax :=
  Vector.ofFn fun i => if i.val / 4 = j then byteOf d.toNat (i.val % 4) else k[i]

end Sys2Proof.Machine
end

