-- ==== Sys2Proof/Syntax.lean ====
section
/-! DEFINITION. The instructions: the four commands and the illegal command words of R69 and R70, and the fourteen
micro-operations of R74, one constructor for each row of spec/opcode_table.json. -/

namespace Sys2Proof

/-- One row of the opcode table per constructor. Neither commands nor micro-operations carry operands (R67, R76): what
they work on are the named registers. Only an illegal command word keeps its two fields, since `LASTOP` records one. -/
inductive Instr where
  /-- `NOP` (R84). -/
  | nop
  /-- `INIT`: construct an engine (R91); its acceptance is R86. -/
  | init
  /-- `ENC`: the forward pass (R116); its acceptance is R87. -/
  | enc
  /-- `DEC`: the inverse pass (R127); its acceptance is R88. -/
  | dec
  /-- `ILLEGAL`: every other command word, by its fields `RSV` (bits 31:4) and `OP` (bits 3:0) (R68, R70, R85). -/
  | illegal (rsv : BitVec 28) (op : BitVec 4)
  /-- `I_KEYCHK` (R92). -/
  | iKeychk
  /-- `I_PARCHK` (R93). -/
  | iParchk
  /-- `I_WIDTHS` (R94). -/
  | iWidths
  /-- `I_EXP` (R95). -/
  | iExp
  /-- `I_PATH` (R98). -/
  | iPath
  /-- `I_COMMIT` (R100). -/
  | iCommit
  /-- `X_CHECK` (R117). -/
  | xCheck
  /-- `X_SPLIT` (R118, R128). -/
  | xSplit
  /-- `R_PACK` (R105). -/
  | rPack
  /-- `R_CIPH` (R107). -/
  | rCiph
  /-- `R_UNPACK` (R108). -/
  | rUnpack
  /-- `R_REDUCE` (R112). -/
  | rReduce
  /-- `R_MIX` (R121, R129). -/
  | rMix
  /-- `X_JOIN` (R122). -/
  | xJoin
  deriving DecidableEq, Repr

end Sys2Proof
end

