-- ==== Sys2Proof/WellFormed.lean ====
section
/-! DEFINITION. Which instruction terms stand for a word: an illegal command word is one that is none of the four
commands (R70). -/

namespace Sys2Proof

/-- The check of R70: `d[31:4] ≠ 0` or `OP` in `[4, 15]`. -/
def illegalFields (rsv : BitVec 28) (op : BitVec 4) : Bool :=
  rsv != 0 || decide (4 ≤ op.toNat)

/-- Every term but an `illegal` one is well formed; an `illegal` term has the fields of an illegal word (R70). -/
def Instr.wf : Instr → Bool
  | .nop => true
  | .init => true
  | .enc => true
  | .dec => true
  | .illegal rsv op => illegalFields rsv op
  | .iKeychk => true
  | .iParchk => true
  | .iWidths => true
  | .iExp => true
  | .iPath => true
  | .iCommit => true
  | .xCheck => true
  | .xSplit => true
  | .rPack => true
  | .rCiph => true
  | .rUnpack => true
  | .rReduce => true
  | .rMix => true
  | .xJoin => true

end Sys2Proof
end

