-- ==== Sys2Proof/Decode.lean ====
section
/-! DEFINITION. The decoder and, after it, the encoder. A command word is 32 bits (R67) and every one decodes (R70); a
micro-operation is named by a 4-bit phase code (R74), of which code 0 (`IDLE`, no micro-operation) and code 15 (unused)
are refused by name. As bytes a command word is four, least significant first, and a phase code is one (assumption 9). -/

namespace Sys2Proof

/-- Why bytes decode to no instruction. -/
inductive DecodeError where
  /-- Neither the four bytes of a command word nor the one byte of a phase code. Safe. -/
  | badLength
  /-- A byte above 15: the phase code has 4 bits (R74). Safe. -/
  | notAPhaseCode
  /-- Phase code 0: in `IDLE` the sequencer has no step (R74, R90). Safe. -/
  | idlePhase
  /-- Phase code 15: unused (R74). Safe. -/
  | unusedPhase
  deriving DecidableEq, Repr

/-- Field `OP`, bits 3:0 of a command word (R68). -/
def opField (d : BusWord) : BitVec 4 := d.extractLsb' 0 4

/-- Field `RSV`, bits 31:4 of a command word (R68). -/
def rsvField (d : BusWord) : BitVec 28 := d.extractLsb' 4 28

/-- `decode(d) = NOP | INIT | ENC | DEC | Illegal`: the four exact matches first, every other word illegal (R69, R70). -/
def decodeCommand (d : BusWord) : Instr :=
  if d = 0x00000000#32 then .nop
  else if d = 0x00000001#32 then .init
  else if d = 0x00000002#32 then .enc
  else if d = 0x00000003#32 then .dec
  else .illegal (rsvField d) (opField d)

/-- The micro-operation a phase code names (R74). -/
def decodePhase (c : BitVec 4) : Except DecodeError Instr :=
  match c.toNat with
  | 0 => .error .idlePhase
  | 1 => .ok .iKeychk
  | 2 => .ok .iParchk
  | 3 => .ok .iWidths
  | 4 => .ok .iExp
  | 5 => .ok .iPath
  | 6 => .ok .iCommit
  | 7 => .ok .xCheck
  | 8 => .ok .xSplit
  | 9 => .ok .rPack
  | 10 => .ok .rCiph
  | 11 => .ok .rUnpack
  | 12 => .ok .rReduce
  | 13 => .ok .rMix
  | 14 => .ok .xJoin
  | _ => .error .unusedPhase

/-- The decoder, total on any bytes. -/
def decode : List Byte → Except DecodeError Instr
  | [c] => if c.toNat < 16 then decodePhase (c.setWidth 4) else .error .notAPhaseCode
  | [b0, b1, b2, b3] => .ok (decodeCommand (b3 ++ b2 ++ b1 ++ b0))
  | _ => .error .badLength

/-- The four bytes of a command word, least significant first (assumption 9). -/
def commandBytes (d : BusWord) : List Byte :=
  [d.extractLsb' 0 8, d.extractLsb' 8 8, d.extractLsb' 16 8, d.extractLsb' 24 8]

/-- The encoder, from the opcode map of R69, the fields of R68 and the phase codes of R74. -/
def encode : Instr → List Byte
  | .nop => commandBytes 0x00000000#32
  | .init => commandBytes 0x00000001#32
  | .enc => commandBytes 0x00000002#32
  | .dec => commandBytes 0x00000003#32
  | .illegal rsv op => commandBytes (rsv ++ op)
  | .iKeychk => [0x01#8]
  | .iParchk => [0x02#8]
  | .iWidths => [0x03#8]
  | .iExp => [0x04#8]
  | .iPath => [0x05#8]
  | .iCommit => [0x06#8]
  | .xCheck => [0x07#8]
  | .xSplit => [0x08#8]
  | .rPack => [0x09#8]
  | .rCiph => [0x0A#8]
  | .rUnpack => [0x0B#8]
  | .rReduce => [0x0C#8]
  | .rMix => [0x0D#8]
  | .xJoin => [0x0E#8]

/-- The bytes of a word of the opcode table: a row of at most 8 bits is a phase code, a wider one a command word. -/
def tableBytes (nbits w : Nat) : List Byte :=
  if nbits ≤ 8 then [BitVec.ofNat 8 w] else commandBytes (BitVec.ofNat 32 w)

/-- The instruction the decoder reads from an instruction of the opcode table whose bits are `w`; none where the
decoder refuses it or the bits do not fit their row. -/
def decodeTableWord (nbits w : Nat) : Option Instr :=
  if 32 < nbits ∨ 2 ^ nbits ≤ w then none else (decode (tableBytes nbits w)).toOption

end Sys2Proof
end

