-- ==== Sys2Proof/Machine/State.lean ====
section
/-! DEFINITION. The state of the machine as plain data: every register of spec/10_state.md, the host's pending
transactions and the record of what has crossed the two ports; the fault and refusal reasons; the reset state. -/

namespace Sys2Proof.Machine

/-- `PHASE`: the micro-operation the sequencer performs next (R36, R74). Code 15 is not a value of it (assumption 8). -/
inductive Phase where
  | idle | iKeychk | iParchk | iWidths | iExp | iPath | iCommit
  | xCheck | xSplit | rPack | rCiph | rUnpack | rReduce | rMix | xJoin
  deriving DecidableEq, Repr

/-- `PATH`: which bytes of the cipher output form the raw value (R30, R75). -/
inductive Path where
  /-- 0: the low 64 bits. -/
  | small
  /-- 1: all 128 bits. -/
  | large
  deriving DecidableEq, Repr

/-- `DIR`: the direction of the running Feistel pass (R37, R75). -/
inductive Dir where
  /-- 0: `ENC`. -/
  | forward
  /-- 1: `DEC`. -/
  | inverse
  deriving DecidableEq, Repr

/-- An index 0 or 1 into `WORK`, `MOD` and `PW` (R39, R75). -/
inductive Half where
  /-- 0: the low part. -/
  | lo
  /-- 1: the high part. -/
  | hi
  deriving DecidableEq, Repr

/-- The error codes of R72 that a rule produces, with success. -/
inductive ErrCode where
  /-- 0: success. -/
  | ok
  /-- 1 (R144). -/
  | invalidKeyLength
  /-- 2 (R145). -/
  | invalidParameters
  /-- 3 (R146). -/
  | outOfRange
  /-- 4 (R147). -/
  | notConfigured
  /-- 5 (R148). -/
  | illegalCommand
  /-- 6 (R149). -/
  | capacityExceeded
  deriving DecidableEq, Repr

/-- What the host can do at its port and with the reset input (R10, R47, R66, R80, R159). -/
inductive HostOp where
  /-- `BusRead(wa)`; the script's `RD`. -/
  | read (wa : WordIndex)
  /-- `BusWrite(wa, d)`; the script's `WR`. A write to `CMD` carries a command word (R67). -/
  | write (wa : WordIndex) (d : BusWord)
  /-- The script's `WAIT`: `RD STATUS` until `BUSY` is 0 (R80, assumption 3). -/
  | wait
  /-- The reset input is asserted (R159). -/
  | reset
  deriving DecidableEq, Repr

/-- A host transaction still to come, and how many sequencer steps the host lets pass before it. Between two
transactions the sequencer performs any number of micro-operations (R47, R169); the gap says how many (assumption 2). -/
structure HostEvent where
  gap : Nat
  op : HostOp
  deriving DecidableEq, Repr

/-- A request seen at the cipher port: the key bytes and the block (R60). -/
structure CipherRequest where
  key : List Byte
  pt : Block
  deriving DecidableEq, Repr

/-- Why the machine stops with a fault. It never does: the spec gives the engine no trap, and every error is the
completion of a command with a code in `ERR` (R143), which is a next state (assumption 12). Safe. -/
inductive Fault where
  deriving DecidableEq, Repr

/-- Why a step has no meaning. No arm of `exec` gives this answer: every row of the opcode table has its meaning. -/
inductive Refusal where
  /-- An instruction of the opcode table without a meaning, by its mnemonic. Raised by `exec` alone. Safe. -/
  | notModelled (mnemonic : String)
  deriving DecidableEq, Repr

/-- The state. The first five groups are the five classes of R17; the last is the model's own (assumption 10). -/
structure State where
  /-- `RADIX` (R18). -/
  radix : BitVec Config.radixW
  /-- `WIDTH` (R19). -/
  width : BitVec Config.widthW
  /-- `ROUNDS` (R20). -/
  rounds : BitVec Config.roundsW
  /-- `KEYLEN` (R21). -/
  keylen : BitVec Config.keylenW
  /-- `KEY[0..31]` (R22). -/
  key : Bytes Config.keyMax
  /-- `DIN` (R23). -/
  din : BitVec Config.msgW
  /-- `CFG_VALID` (R24). -/
  cfgValid : Bool
  /-- `aKEY[0..31]` (R25). -/
  aKey : Bytes Config.keyMax
  /-- `aKEYLEN` (R25). -/
  aKeylen : BitVec Config.keylenW
  /-- `aRADIX` (R26). -/
  aRadix : BitVec Config.radixW
  /-- `aWIDTH` (R26). -/
  aWidth : BitVec Config.widthW
  /-- `aROUNDS` (R26). -/
  aRounds : BitVec Config.roundsW
  /-- `PW[0]` (R27). -/
  pw0 : BitVec Config.widthW
  /-- `PW[1]` (R27). -/
  pw1 : BitVec Config.widthW
  /-- `MOD[0]` (R28). -/
  mod0 : BitVec Config.modW
  /-- `MOD[1]` (R28). -/
  mod1 : BitVec Config.modW
  /-- `BLKSZ` (R29). -/
  blksz : BitVec Config.blkW
  /-- `PATH` (R30). -/
  path : Path
  /-- `DOUT` (R31). -/
  dout : BitVec Config.msgW
  /-- `ERR` (R32). -/
  err : BitVec Config.codeW
  /-- `LASTOP` (R33). -/
  lastop : BitVec Config.codeW
  /-- `PHASE` (R36). -/
  phase : Phase
  /-- `DIR` (R37), scratch. -/
  dir : Dir
  /-- `RND` (R38), scratch. -/
  rnd : BitVec Config.roundsW
  /-- `FROM` (R39), scratch. -/
  fromIdx : Half
  /-- `TO` (R39), scratch. -/
  toIdx : Half
  /-- `WORK[0]` (R40), scratch. -/
  work0 : BitVec Config.workW
  /-- `WORK[1]` (R40), scratch. -/
  work1 : BitVec Config.workW
  /-- `PTBUF` (R41), scratch. -/
  ptbuf : Block
  /-- `CTBUF` (R41), scratch. -/
  ctbuf : Block
  /-- `RAW` (R42), scratch. -/
  raw : BitVec Config.rawW
  /-- `DELTA` (R42), scratch. -/
  delta : BitVec Config.workW
  /-- `ACC` (R43), scratch. -/
  acc : BitVec Config.blkW
  /-- `CNT` (R43), scratch. -/
  cnt : BitVec Config.widthW
  /-- `T_PW[0]` (R43), scratch. -/
  tPw0 : BitVec Config.widthW
  /-- `T_PW[1]` (R43), scratch. -/
  tPw1 : BitVec Config.widthW
  /-- `T_MOD[0]` (R43), scratch. -/
  tMod0 : BitVec Config.modW
  /-- `T_MOD[1]` (R43), scratch. -/
  tMod1 : BitVec Config.modW
  /-- `T_BLK` (R43), scratch. -/
  tBlk : BitVec Config.blkW
  /-- `T_PATH` (R43), scratch. -/
  tPath : Path
  /-- The model's own: the host transactions still to come, the next one first (assumption 2). -/
  host : List HostEvent
  /-- The model's own: what `BusRead` has returned, with its word index, the oldest first (assumption 10). -/
  reads : List (WordIndex × BusWord)
  /-- The model's own: the requests seen at the cipher port, the oldest first (assumption 10). -/
  requests : List CipherRequest
  deriving DecidableEq, Repr

/-- The three outcomes of an instruction or a step. -/
abbrev Result := Host.Outcome State Fault Refusal

/-- The machine right after reset (R160), with no host transaction pending and nothing recorded (assumption 11). The
scratch registers, to which R160 gives no value, hold zero (assumption 6). -/
def State.reset : State where
  radix := 0
  width := 0
  rounds := 0
  keylen := 0
  key := Vector.replicate Config.keyMax 0
  din := 0
  cfgValid := false
  aKey := Vector.replicate Config.keyMax 0
  aKeylen := 0
  aRadix := 0
  aWidth := 0
  aRounds := 0
  pw0 := 0
  pw1 := 0
  mod0 := 0
  mod1 := 0
  blksz := 0
  path := .small
  dout := 0
  err := 0
  lastop := 0
  phase := .idle
  dir := .forward
  rnd := 0
  fromIdx := .lo
  toIdx := .lo
  work0 := 0
  work1 := 0
  ptbuf := Vector.replicate Config.cb 0
  ctbuf := Vector.replicate Config.cb 0
  raw := 0
  delta := 0
  acc := 0
  cnt := 0
  tPw0 := 0
  tPw1 := 0
  tMod0 := 0
  tMod1 := 0
  tBlk := 0
  tPath := .small
  host := []
  reads := []
  requests := []

end Sys2Proof.Machine
end

