-- ==== Sys2Proof/Machine/Operands.lean ====
section
/-! DEFINITION. How operands are read and results are written: the arithmetic primitives of R12 with the spec's side
conditions written out, the two-entry register files, the active key, and the cipher block layouts of R77 and R78.
Outside a side condition a free value of Config results (assumption 5); no reachable state is outside one. -/

namespace Sys2Proof.Machine

/-! ## Arithmetic (R12, R14) -/

/-- `REG <- v` for a register of `w` bits: `v` itself where it fits (R14). -/
def fit (w : Nat) (v : Nat) : BitVec w :=
  if v < 2 ^ w then BitVec.ofNat w v else Config.openFit w v

/-- `a mod m`, for `m` at least 1 (R12). -/
def natMod (a m : Nat) : Nat :=
  if m = 0 then Config.openMod a else a % m

/-- `a div m`, for `m` at least 1 (R12). -/
def natDiv (a m : Nat) : Nat :=
  if m = 0 then Config.openDiv a else a / m

/-- `a - b`, exact, for `a` at least `b` (R12). -/
def exactSub (a b : Nat) : Nat :=
  if b ≤ a then a - b else Config.openSub a b

/-- `(w - d) mod m` with the mathematical `mod`: a result in `[0, m)` also where `w - d` is negative (R129). -/
def modSub (w d m : Nat) : Nat :=
  if m = 0 then Config.openModSub w d else (((w : Int) - (d : Int)) % (m : Int)).toNat

/-- `half_up(w)`, the ceiling of `w / 2` (R12). -/
def halfUp (w : Nat) : Nat := (w + 1) / 2

/-- `half_down(w)`, the floor of `w / 2` (R12). -/
def halfDown (w : Nat) : Nat := w / 2

/-- `divides_2_128(n)` (R12). -/
def dividesTwo128 (n : Nat) : Bool := decide (1 ≤ n) && decide (2 ^ 128 % n = 0)

/-- `path_of(b)`: small if `b` fits in 32 bits, or fits in 64 bits and divides `2^128` (R98). -/
def pathOf (b : Nat) : Path :=
  if b < 2 ^ 32 ∨ (b < 2 ^ 64 ∧ dividesTwo128 b = true) then .small else .large

/-! ## The two-entry register files (R14, R39) -/

/-- `1 - i`: the other index (R39, R134). -/
def Half.other : Half → Half
  | .lo => .hi
  | .hi => .lo

/-- The index `n mod 2` (R118, R120). -/
def Half.ofParity (n : Nat) : Half :=
  if n % 2 = 0 then .lo else .hi

/-- `WORK[i]` (R40). -/
def State.work (s : State) : Half → BitVec Config.workW
  | .lo => s.work0
  | .hi => s.work1

/-- `WORK[i] <- v` (R40). -/
def State.setWork (s : State) (i : Half) (v : BitVec Config.workW) : State :=
  match i with
  | .lo => { s with work0 := v }
  | .hi => { s with work1 := v }

/-- `MOD[i]` (R28). -/
def State.modulus (s : State) : Half → BitVec Config.modW
  | .lo => s.mod0
  | .hi => s.mod1

/-! ## Keys (R25, R100) -/

/-- The first `n` key bytes kept, the rest 0: what `I_COMMIT` copies into `aKEY` (R100). -/
def keepKey (k : Bytes Config.keyMax) (n : Nat) : Bytes Config.keyMax :=
  Vector.ofFn fun i => if i.val < n then k[i] else 0

/-- The active key, `aKEY[0..aKEYLEN-1]` (R25). -/
def State.activeKey (s : State) : List Byte :=
  s.aKey.toList.take s.aKeylen.toNat

/-! ## Cipher blocks (R77, R78) -/

/-- The cipher input block: round number in bytes 0 to 7, work value in bytes 8 to 15, each little-endian (R77). -/
def packBlock (round workValue : Nat) : Block :=
  leBytes 8 round ++ leBytes 8 workValue

/-- The raw integer taken from the cipher output block: bytes 0 to 7 on the small path, all 16 on the large (R78). -/
def unpackBlock (p : Path) (ct : Block) : Nat :=
  match p with
  | .small => fromLE (ct.toList.take 8)
  | .large => fromLE ct.toList

end Sys2Proof.Machine
end

