-- ==== Sys2Proof/Machine/Flags.lean ====
section
/-! DEFINITION. The status flags and the encodings of what the host reads of them: `BUSY`, the error codes, the opcode
of the running command, the words `STATUS` and `CFGINFO`. The engine has no condition codes (R35). -/

namespace Sys2Proof.Machine

/-- `BUSY = (PHASE ≠ IDLE)` (R34). -/
def State.busy (s : State) : Bool := s.phase != .idle

/-- `code(E)`, the table of R72 from name to number. -/
def ErrCode.code : ErrCode → BitVec Config.codeW
  | .ok => 0
  | .invalidKeyLength => 1
  | .invalidParameters => 2
  | .outOfRange => 3
  | .notConfigured => 4
  | .illegalCommand => 5
  | .capacityExceeded => 6

/-- `PATH` as its bit (R75). -/
def Path.bit : Path → BitVec 1
  | .small => 0
  | .large => 1

/-- The opcode of a pass in this direction, `2 + DIR` (R75, R89). -/
def Dir.opcode : Dir → BitVec Config.codeW
  | .forward => 2
  | .inverse => 3

/-- Whether `PHASE` is one of the `I_*` phases (R89). -/
def Phase.ofInit : Phase → Bool
  | .iKeychk | .iParchk | .iWidths | .iExp | .iPath | .iCommit => true
  | .idle | .xCheck | .xSplit | .rPack | .rCiph | .rUnpack | .rReduce | .rMix | .xJoin => false

/-- The opcode of the running command: 1 in the `I_*` phases, else `2 + DIR` (R89). -/
def State.runningOp (s : State) : BitVec Config.codeW :=
  if s.phase.ofInit then 1 else s.dir.opcode

/-- `STATUS`: `ERR` in bits 11:8, `LASTOP` in 7:4, `PATH` in 2, `CFG_VALID` in 1, `BUSY` in 0, zeros elsewhere (R71). -/
def statusWord (s : State) : BusWord :=
  (0#20 ++ s.err ++ s.lastop ++ 0#1 ++ s.path.bit ++ BitVec.ofBool s.cfgValid ++ BitVec.ofBool s.busy : BitVec 32)

/-- `CFGINFO`: `aKEYLEN` in bits 29:24, `aWIDTH` in 23:16, `PW[1]` in 15:8, `PW[0]` in 7:0 (R73). -/
def cfginfoWord (s : State) : BusWord :=
  (0#2 ++ s.aKeylen ++ s.aWidth ++ s.pw1 ++ s.pw0 : BitVec 32)

end Sys2Proof.Machine
end

