-- ==== Sys2Proof/Machine/Ops.lean ====
section
/-! DEFINITION. The shared operations: accepting a command, completing one with or without an error (the engine's only
exception mechanism, R143; there is no return from it, R153), the cipher request, and the reset transition. -/

namespace Sys2Proof.Machine

/-- What a `BusWrite` to `CMD` does: its command's effect `f` in `IDLE`, nothing at all while busy (R50, R83). -/
def acceptCommand (f : State → State) (s : State) : Result :=
  if s.busy then .next s else .next (f s)

/-- `finish(e)`: `ERR <- e`, `LASTOP <- op`, `CFG_VALID <- 0` for an `INIT` that failed, `PHASE <- IDLE` (R89). The
scratch registers keep what they hold (R43, assumption 7). -/
def finish (e : ErrCode) (s : State) : State :=
  { s with
    err := e.code
    lastop := s.runningOp
    cfgValid := if s.runningOp = 1 ∧ e ≠ .ok then false else s.cfgValid
    phase := .idle }

/-- `raise E`: `finish(code(E))` and nothing else (R14, R89). -/
def raiseError (e : ErrCode) (s : State) : Result :=
  .next (finish e s)

/-- One transaction at the cipher port: request and response in one step (R60, R107). The request is recorded. -/
def cipherRequest (s : State) : State :=
  { s with
    ctbuf := Config.blockEncrypt s.activeKey s.ptbuf
    requests := s.requests ++ [{ key := s.activeKey, pt := s.ptbuf }] }

/-- The reset transition: every register at its reset value (R159, R160, R161). What the host has still to do and what
has crossed the ports are not the engine's and stay (assumption 10). -/
def resetEngine (s : State) : State :=
  { State.reset with host := s.host, reads := s.reads, requests := s.requests }

end Sys2Proof.Machine
end

