-- ==== Sys2Proof/Machine/CipherWrapper.lean ====
section
/-! DEFINITION. Unit U2, the block-cipher mode wrapper: pack, one single-block invocation, unpack
(spec/42_cipher_wrapper.md). -/

namespace Sys2Proof.Machine

/-- `R_PACK`: `RND` and `WORK[FROM]` as two little-endian 64-bit fields (R105). -/
def execRPack (s : State) : Result :=
  .next { s with
    ptbuf := packBlock s.rnd.toNat (s.work s.fromIdx).toNat
    phase := .rCiph }

/-- `R_CIPH`: `CTBUF <- BlockEncrypt(aKEY[0..aKEYLEN-1], PTBUF)` (R107). -/
def execRCiph (s : State) : Result :=
  .next { cipherRequest s with phase := .rUnpack }

/-- `R_UNPACK`: `RAW` is the low 64 bits of `CTBUF` on the small path, all 128 on the large (R108). -/
def execRUnpack (s : State) : Result :=
  .next { s with
    raw := fit Config.rawW (unpackBlock s.path s.ctbuf)
    phase := .rReduce }

end Sys2Proof.Machine
end

