-- ==== Sys2Proof/Machine/Commands.lean ====
section
/-! DEFINITION. The commands at their acceptance: NOP, the illegal words, and the start of INIT, ENC and DEC, all in the
step of the write that carries the command word (spec/40_command_dispatch.md). While the engine is busy the write is
dropped (R50, R83). -/

namespace Sys2Proof.Machine

/-- `NOP`: the state after equals the state before (R84). -/
def execNop (s : State) : Result :=
  acceptCommand (fun s => s) s

/-- `INIT`: `PHASE <- I_KEYCHK` (R86). -/
def execInit (s : State) : Result :=
  acceptCommand (fun s => { s with phase := .iKeychk }) s

/-- `ENC`: `DIR <- 0; PHASE <- X_CHECK` (R87). -/
def execEnc (s : State) : Result :=
  acceptCommand (fun s => { s with dir := .forward, phase := .xCheck }) s

/-- `DEC`: `DIR <- 1; PHASE <- X_CHECK` (R88). -/
def execDec (s : State) : Result :=
  acceptCommand (fun s => { s with dir := .inverse, phase := .xCheck }) s

/-- An illegal command word: `ERR <- 5; LASTOP <- d[3:0]`, nothing else (R85, R148). The reserved field only makes the
word illegal; nothing is stored of it (R52). -/
def execIllegal (_rsv : BitVec 28) (op : BitVec 4) (s : State) : Result :=
  acceptCommand (fun s => { s with err := ErrCode.illegalCommand.code, lastop := op }) s

end Sys2Proof.Machine
end

