-- ==== Sys2Proof/Machine/Feistel.lean ====
section
/-! DEFINITION. Unit U4, the Feistel iteration state machine in both directions: check, split, mix, join
(spec/44_feistel_encrypt.md, spec/45_feistel_decrypt.md). -/

namespace Sys2Proof.Machine

/-- `X_CHECK`: an engine must exist, and `DIN` must be below `BLKSZ` (R117). -/
def execXCheck (s : State) : Result :=
  if s.cfgValid = false then raiseError .notConfigured s
  else if s.blksz.toNat ≤ s.din.toNat then raiseError .outOfRange s
  else .next { s with phase := .xSplit }

/-- `X_SPLIT`: the two parts of `DIN`, and the round number and indices at which the pass of this direction starts
(R118, R128). -/
def execXSplit (s : State) : Result :=
  let low := natMod s.din.toNat s.mod0.toNat
  let high := natMod (natDiv s.din.toNat s.mod0.toNat) s.mod1.toNat
  let last := exactSub s.aRounds.toNat 1
  .next { s with
    work0 := fit Config.workW low
    work1 := fit Config.workW high
    rnd := match s.dir with
      | .forward => 0
      | .inverse => fit Config.roundsW last
    fromIdx := match s.dir with
      | .forward => .lo
      | .inverse => Half.ofParity last
    toIdx := match s.dir with
      | .forward => .hi
      | .inverse => Half.ofParity s.aRounds.toNat
    phase := .rPack }

/-- What `R_MIX` makes of `WORK[TO] = w` and `DELTA = d` modulo `m`: the sum forward (R121), the difference inverse
(R129). -/
def mixValue (dir : Dir) (w d m : Nat) : Nat :=
  match dir with
  | .forward => natMod (w + d) m
  | .inverse => modSub w d m

/-- Whether the round just mixed is the last of the pass: `RND + 1 = aROUNDS` forward (R121), `RND = 0` inverse
(R129). -/
def lastRound (s : State) : Bool :=
  match s.dir with
  | .forward => decide (s.rnd.toNat + 1 = s.aRounds.toNat)
  | .inverse => decide (s.rnd.toNat = 0)

/-- `RND` for the next round: one up forward (R121), one down inverse (R129). -/
def nextRound (s : State) : BitVec Config.roundsW :=
  match s.dir with
  | .forward => fit Config.roundsW (s.rnd.toNat + 1)
  | .inverse => fit Config.roundsW (exactSub s.rnd.toNat 1)

/-- `R_MIX`: `WORK[TO]` is mixed with `DELTA`, the indices are swapped, and the round is counted or the pass ends
(R121, R129). -/
def execRMix (s : State) : Result :=
  let mixed := fit Config.workW
    (mixValue s.dir (s.work s.toIdx).toNat s.delta.toNat (s.modulus s.toIdx).toNat)
  let swapped := { s.setWork s.toIdx mixed with fromIdx := s.toIdx, toIdx := s.fromIdx }
  if lastRound s then .next { swapped with phase := .xJoin }
  else .next { swapped with rnd := nextRound s, phase := .rPack }

/-- `X_JOIN`: `DOUT <- WORK[1] * MOD[0] + WORK[0]`, then `finish(0)` (R122). -/
def execXJoin (s : State) : Result :=
  .next (finish .ok { s with dout := fit Config.msgW (s.work1.toNat * s.mod0.toNat + s.work0.toNat) })

end Sys2Proof.Machine
end

