-- ==== Sys2Proof/Machine/Init.lean ====
section
/-! DEFINITION. Unit U1, the micro-operations of INIT: checks, digit widths, radix exponentiation, path selection and
commit (spec/41_init_param_derivation.md). -/

namespace Sys2Proof.Machine

/-- `I_KEYCHK`: `KEYLEN` must be one of `KEYLENS` (R92). -/
def execIKeychk (s : State) : Result :=
  if s.keylen.toNat ∈ Config.keylens then .next { s with phase := .iParchk }
  else raiseError .invalidKeyLength s

/-- `I_PARCHK`: `RADIX ≥ 2`, `WIDTH ≥ 1`, `ROUNDS ≥ 1` (R93). -/
def execIParchk (s : State) : Result :=
  if s.radix.toNat < 2 ∨ s.width.toNat < 1 ∨ s.rounds.toNat < 1 then raiseError .invalidParameters s
  else .next { s with phase := .iWidths }

/-- `I_WIDTHS`: the two digit widths, and the exponentiation's start (R94). -/
def execIWidths (s : State) : Result :=
  .next { s with
    tPw0 := fit Config.widthW (halfUp s.width.toNat)
    tPw1 := fit Config.widthW (halfDown s.width.toNat)
    acc := 1
    cnt := 0
    phase := .iExp }

/-- `I_EXP`: one multiplication by `RADIX`. The capacity test comes first and a step that raises writes nothing else
(R95, spec/90_conflicts.md C14). -/
def execIExp (s : State) : Result :=
  if s.cnt.toNat < s.tPw0.toNat ∧ Config.modMax < s.acc.toNat * s.radix.toNat then raiseError .capacityExceeded s
  else
    let tMod1 := if s.cnt = s.tPw1 then fit Config.modW s.acc.toNat else s.tMod1
    if s.cnt = s.tPw0 then
      .next { s with tMod1 := tMod1, tMod0 := fit Config.modW s.acc.toNat, phase := .iPath }
    else
      .next { s with
        tMod1 := tMod1
        acc := fit Config.blkW (s.acc.toNat * s.radix.toNat)
        cnt := fit Config.widthW (s.cnt.toNat + 1)
        phase := .iExp }

/-- `I_PATH`: the block size and the path it selects (R98). -/
def execIPath (s : State) : Result :=
  .next { s with
    tBlk := fit Config.blkW (s.tMod0.toNat * s.tMod1.toNat)
    tPath := pathOf (s.tMod0.toNat * s.tMod1.toNat)
    phase := .iCommit }

/-- `I_COMMIT`: the staging registers and the derived values become the active configuration, then `finish(0)`
(R100). -/
def execICommit (s : State) : Result :=
  .next (finish .ok { s with
    aKeylen := s.keylen
    aKey := keepKey s.key s.keylen.toNat
    aRadix := s.radix
    aWidth := s.width
    aRounds := s.rounds
    pw0 := s.tPw0
    pw1 := s.tPw1
    mod0 := s.tMod0
    mod1 := s.tMod1
    blksz := s.tBlk
    path := s.tPath
    cfgValid := true })

end Sys2Proof.Machine
end

