-- ==== Sys2Proof/Machine/RoundFunction.lean ====
section
/-! DEFINITION. Unit U3, the reduction of the round function (spec/43_round_function.md). -/

namespace Sys2Proof.Machine

/-- `R_REDUCE`: `DELTA <- RAW mod MOD[TO]` (R112). -/
def execRReduce (s : State) : Result :=
  .next { s with
    delta := fit Config.workW (natMod s.raw.toNat (s.modulus s.toIdx).toNat)
    phase := .rMix }

end Sys2Proof.Machine
end

