-- ==== Sys2Proof/Machine/Dispatch.lean ====
section
/-! DEFINITION. The dispatch: one arm per constructor of Instr. -/

namespace Sys2Proof.Machine

def exec (i : Instr) (s : State) : Host.Outcome State Fault Refusal :=
  match i with
  | .nop => Sys2Proof.Machine.execNop s
  | .init => Sys2Proof.Machine.execInit s
  | .enc => Sys2Proof.Machine.execEnc s
  | .dec => Sys2Proof.Machine.execDec s
  | .illegal rsv op => Sys2Proof.Machine.execIllegal rsv op s
  | .iKeychk => Sys2Proof.Machine.execIKeychk s
  | .iParchk => Sys2Proof.Machine.execIParchk s
  | .iWidths => Sys2Proof.Machine.execIWidths s
  | .iExp => Sys2Proof.Machine.execIExp s
  | .iPath => Sys2Proof.Machine.execIPath s
  | .iCommit => Sys2Proof.Machine.execICommit s
  | .xCheck => Sys2Proof.Machine.execXCheck s
  | .xSplit => Sys2Proof.Machine.execXSplit s
  | .rPack => Sys2Proof.Machine.execRPack s
  | .rCiph => Sys2Proof.Machine.execRCiph s
  | .rUnpack => Sys2Proof.Machine.execRUnpack s
  | .rReduce => Sys2Proof.Machine.execRReduce s
  | .rMix => Sys2Proof.Machine.execRMix s
  | .xJoin => Sys2Proof.Machine.execXJoin s

end Sys2Proof.Machine
end

