-- ==== Sys2Proof/Machine/HostPort.lean ====
section
/-! DEFINITION. The host register space: the word numbers of R51 by name, `BusRead`, and `BusWrite` to every word but
`CMD`, whose writes are commands. -/

namespace Sys2Proof.Machine

/-! ## Names of words (R51); the byte offset of word `wa` is `4 * wa` (R46) -/

def Reg.cmd : WordIndex := 0
def Reg.status : WordIndex := 1
def Reg.radixLo : WordIndex := 2
def Reg.radixHi : WordIndex := 3
def Reg.width : WordIndex := 4
def Reg.rounds : WordIndex := 5
def Reg.keylen : WordIndex := 6
/-- `KEYj`, `j = 0..7`. -/
def Reg.key (j : Nat) : WordIndex := BitVec.ofNat Config.indexW (8 + j)
/-- `DINj`, `j = 0..3`. -/
def Reg.din (j : Nat) : WordIndex := BitVec.ofNat Config.indexW (16 + j)
/-- `DOUTj`, `j = 0..3`. -/
def Reg.dout (j : Nat) : WordIndex := BitVec.ofNat Config.indexW (20 + j)
def Reg.cfginfo : WordIndex := 24
def Reg.aRounds : WordIndex := 25
def Reg.aRadixLo : WordIndex := 26
def Reg.aRadixHi : WordIndex := 27
/-- `MOD0_j`, `j = 0..2`. -/
def Reg.mod0 (j : Nat) : WordIndex := BitVec.ofNat Config.indexW (32 + j)
/-- `MOD1_j`, `j = 0..2`. -/
def Reg.mod1 (j : Nat) : WordIndex := BitVec.ofNat Config.indexW (36 + j)
/-- `BLKSZ_j`, `j = 0..4`. -/
def Reg.blksz (j : Nat) : WordIndex := BitVec.ofNat Config.indexW (40 + j)

/-! ## Reading -/

/-- `BusRead(wa)`: the word the map of R51 assigns, with zeros in unassigned bits; write-only and reserved words read 0
(R48, R52). It is a function of the state and changes nothing. -/
def busRead (s : State) (wa : WordIndex) : BusWord :=
  match wa.toNat with
  | 1 => statusWord s
  | 2 => wordOf s.radix 0
  | 3 => wordOf s.radix 1
  | 4 => wordOf s.width 0
  | 5 => wordOf s.rounds 0
  | 6 => wordOf s.keylen 0
  | 16 => wordOf s.din 0
  | 17 => wordOf s.din 1
  | 18 => wordOf s.din 2
  | 19 => wordOf s.din 3
  | 20 => wordOf s.dout 0
  | 21 => wordOf s.dout 1
  | 22 => wordOf s.dout 2
  | 23 => wordOf s.dout 3
  | 24 => cfginfoWord s
  | 25 => wordOf s.aRounds 0
  | 26 => wordOf s.aRadix 0
  | 27 => wordOf s.aRadix 1
  | 32 => wordOf s.mod0 0
  | 33 => wordOf s.mod0 1
  | 34 => wordOf s.mod0 2
  | 36 => wordOf s.mod1 0
  | 37 => wordOf s.mod1 1
  | 38 => wordOf s.mod1 2
  | 40 => wordOf s.blksz 0
  | 41 => wordOf s.blksz 1
  | 42 => wordOf s.blksz 2
  | 43 => wordOf s.blksz 3
  | 44 => wordOf s.blksz 4
  | _ => 0

/-! ## Writing -/

/-- What an idle engine does with a write of `d` to word `wa`: the register bits that word maps are replaced by those of
`d`; read-only and reserved words ignore it (R49, R52, R53). A write to `CMD` is a command and is not handled here. -/
def writeRegister (wa : WordIndex) (d : BusWord) (s : State) : State :=
  match wa.toNat with
  | 2 => { s with radix := putWord s.radix 0 d }
  | 3 => { s with radix := putWord s.radix 1 d }
  | 4 => { s with width := putWord s.width 0 d }
  | 5 => { s with rounds := putWord s.rounds 0 d }
  | 6 => { s with keylen := putWord s.keylen 0 d }
  | 8 => { s with key := putKeyWord s.key 0 d }
  | 9 => { s with key := putKeyWord s.key 1 d }
  | 10 => { s with key := putKeyWord s.key 2 d }
  | 11 => { s with key := putKeyWord s.key 3 d }
  | 12 => { s with key := putKeyWord s.key 4 d }
  | 13 => { s with key := putKeyWord s.key 5 d }
  | 14 => { s with key := putKeyWord s.key 6 d }
  | 15 => { s with key := putKeyWord s.key 7 d }
  | 16 => { s with din := putWord s.din 0 d }
  | 17 => { s with din := putWord s.din 1 d }
  | 18 => { s with din := putWord s.din 2 d }
  | 19 => { s with din := putWord s.din 3 d }
  | _ => s

/-- `BusWrite(wa, d)` to a word other than `CMD`: dropped while busy, for every `wa` (R49, R50). -/
def busWrite (wa : WordIndex) (d : BusWord) (s : State) : State :=
  if s.busy then s else writeRegister wa d s

/-- The host performs `BusRead(wa)` and keeps what it returned. -/
def recordRead (wa : WordIndex) (s : State) : State :=
  { s with reads := s.reads ++ [(wa, busRead s wa)] }

/-! ## The same by byte offset (R14, R48, R49) -/

/-- The word index of a byte offset. An offset that is no multiple of 4 or lies beyond the 64 words cannot be expressed
at the port (R46, R57), so it has none. -/
def wordIndexOf (off : Nat) : Option WordIndex :=
  if off % 4 = 0 ∧ off < 256 then some (BitVec.ofNat Config.indexW (off / 4)) else none

/-- `MemRead(off, 4) = BusRead(off div 4)` (R14, R48). -/
def memRead (s : State) (off : Nat) : Option BusWord :=
  (wordIndexOf off).map (busRead s)

/-- `MemWrite(off, 4, d) = BusWrite(off div 4, d)` as the host's move (R14, R49). -/
def memWrite (off : Nat) (d : BusWord) : Option HostOp :=
  (wordIndexOf off).map fun wa => .write wa d

end Sys2Proof.Machine
end

