-- ==== Sys2Proof/Machine/Fetch.lean ====
section
/-! DEFINITION. What happens next: which of the two agents that have steps of their own moves, and what it does (R10,
R47, R90). The sequencer's next micro-operation is named by `PHASE`; a command comes with the host's write to `CMD`. -/

namespace Sys2Proof.Machine

/-- What the next step is. -/
inductive Move where
  /-- An instruction runs on this state. -/
  | run (i : Instr) (s : State)
  /-- No instruction runs and this is the next state: a register access, a reset, or nobody has a step. -/
  | settle (s : State)

/-- The 4-bit code of a phase (R74). -/
def Phase.code : Phase → BitVec 4
  | .idle => 0
  | .iKeychk => 1
  | .iParchk => 2
  | .iWidths => 3
  | .iExp => 4
  | .iPath => 5
  | .iCommit => 6
  | .xCheck => 7
  | .xSplit => 8
  | .rPack => 9
  | .rCiph => 10
  | .rUnpack => 11
  | .rReduce => 12
  | .rMix => 13
  | .xJoin => 14

/-- The phase with a given code; code 15 is unused (R74). -/
def phaseOfCode (c : BitVec 4) : Option Phase :=
  match c.toNat with
  | 0 => some .idle
  | 1 => some .iKeychk
  | 2 => some .iParchk
  | 3 => some .iWidths
  | 4 => some .iExp
  | 5 => some .iPath
  | 6 => some .iCommit
  | 7 => some .xCheck
  | 8 => some .xSplit
  | 9 => some .rPack
  | 10 => some .rCiph
  | 11 => some .rUnpack
  | 12 => some .rReduce
  | 13 => some .rMix
  | 14 => some .xJoin
  | _ => none

/-- The micro-operation of a phase, as the decoder reads its code; `IDLE` has none (R74, R90). -/
def microOp (p : Phase) : Option Instr := (decodePhase p.code).toOption

/-- Whether the host performs its next transaction now: at once while the sequencer has no step; otherwise when the gap
before it has passed, and a `WAIT` not before `BUSY` is 0 (R47, R80, assumptions 2 and 3). -/
def hostTurn (s : State) (e : HostEvent) : Bool :=
  !s.busy || (e.gap == 0 && e.op != .wait)

/-- The host's transaction (R47, R159). The state has it no longer pending. -/
def hostMove (op : HostOp) (s : State) : Move :=
  match op with
  | .read wa => .settle (recordRead wa s)
  | .write wa d => if wa = Reg.cmd then .run (decodeCommand d) s else .settle (busWrite wa d s)
  | .wait => .settle (recordRead Reg.status s)
  | .reset => .settle (resetEngine s)

/-- The sequencer's step, the one micro-operation that `PHASE` names; none in `IDLE`, where the state stays as it is
(R90, assumption 4). -/
def sequencerMove (s : State) : Move :=
  match microOp s.phase with
  | some i => .run i s
  | none => .settle s

/-- The next step of the whole: the host's transaction if it is its turn, else the sequencer's step, which the host
counts. -/
def fetch (s : State) : Move :=
  match s.host with
  | [] => sequencerMove s
  | e :: rest =>
    if hostTurn s e then hostMove e.op { s with host := rest }
    else sequencerMove { s with host := { e with gap := e.gap - 1 } :: rest }

/-- The host lets one more sequencer step pass before its next transaction. -/
def delayHost : List HostEvent → List HostEvent
  | [] => []
  | e :: rest => { e with gap := e.gap + 1 } :: rest

/-- `s` with the instruction of an opcode-table word where `fetch` finds it. A phase code goes into `PHASE`, and the
sequencer moves first; bits that are no phase code leave `s` as it is. A command word comes as the host's next write to
`CMD`. -/
def placeFetchWord (s : State) (nbits w : Nat) : State :=
  if nbits ≤ 8 then
    if w < 16 then
      match phaseOfCode (BitVec.ofNat 4 w) with
      | some p => { s with phase := p, host := delayHost s.host }
      | none => s
    else s
  else { s with host := { gap := 0, op := .write Reg.cmd (BitVec.ofNat 32 w) } :: s.host }

end Sys2Proof.Machine
end

