-- ==== Sys2Proof/Machine/HostScript.lean ====
section
/-! DEFINITION. The host script of R80 and its pseudo-instructions with the expansions of R81: a notation for lists of
host transactions, not a feature of the hardware. -/

namespace Sys2Proof.Machine

/-- A script as pending transactions, with no sequencer step asked for before any of them. -/
def Script.events (ops : List HostOp) : List HostEvent :=
  ops.map fun op => { gap := 0, op := op }

/-- The 32-bit slice `v[32j+31 : 32j]` of a value (R81). -/
def Script.slice (v j : Nat) : BusWord := BitVec.ofNat Config.busW (v / 2 ^ (Config.busW * j))

/-- `NOP` (R80). -/
def Script.nop : HostOp := .write Reg.cmd 0
/-- `INIT` (R80). -/
def Script.init : HostOp := .write Reg.cmd 1
/-- `ENC` (R80). -/
def Script.enc : HostOp := .write Reg.cmd 2
/-- `DEC` (R80). -/
def Script.dec : HostOp := .write Reg.cmd 3

/-- `LDRADIX v` (R81). -/
def Script.ldRadix (v : Nat) : List HostOp :=
  [.write Reg.radixLo (Script.slice v 0), .write Reg.radixHi (Script.slice v 1)]

/-- `LDWIDTH v` (R81). -/
def Script.ldWidth (v : Nat) : List HostOp := [.write Reg.width (Script.slice v 0)]

/-- `LDROUNDS v` (R81). -/
def Script.ldRounds (v : Nat) : List HostOp := [.write Reg.rounds (Script.slice v 0)]

/-- The word `b(4j) + 2^8*b(4j+1) + 2^16*b(4j+2) + 2^24*b(4j+3)`, absent bytes 0 (R81). -/
def Script.keyWord (key : List Byte) (j : Nat) : BusWord :=
  BitVec.ofNat Config.busW (fromLE ((key.drop (4 * j)).take 4))

/-- `LDKEY b0 b1 ...` (R81). -/
def Script.ldKey (key : List Byte) : List HostOp :=
  .write Reg.keylen (BitVec.ofNat Config.busW key.length) ::
    (List.range ((key.length + 3) / 4)).map fun j => .write (Reg.key j) (Script.keyWord key j)

/-- `LDIN v` (R81). -/
def Script.ldIn (v : Nat) : List HostOp :=
  (List.range 4).map fun j => .write (Reg.din j) (Script.slice v j)

/-- `RDOUT` (R81). -/
def Script.rdOut : List HostOp := (List.range 4).map fun j => .read (Reg.dout j)

/-- `NEW key, rounds, radix, width` (R81). -/
def Script.new (key : List Byte) (rounds radix width : Nat) : List HostOp :=
  Script.ldKey key ++ Script.ldRounds rounds ++ Script.ldRadix radix ++ Script.ldWidth width ++
    [Script.init, .wait, .read Reg.status]

/-- `ENCRYPT m` (R81). -/
def Script.encrypt (m : Nat) : List HostOp :=
  Script.ldIn m ++ [Script.enc, .wait, .read Reg.status] ++ Script.rdOut

/-- `DECRYPT c` (R81). -/
def Script.decrypt (c : Nat) : List HostOp :=
  Script.ldIn c ++ [Script.dec, .wait, .read Reg.status] ++ Script.rdOut

end Sys2Proof.Machine
end

