-- ==== Sys2Proof/Machine/Reference.lean ====
section
/-! DEFINITION. The engine's functions as the spec writes them in one piece, for any cipher: `Derive` (R102), `Raw`
(R104), `round_output` (R111), a round and its inverse (R130), `Encrypt` (R123) and `Decrypt` (R131); and what a whole
`INIT`, `ENC` or `DEC` makes of the state at its acceptance (R91, R116, R127). The step does not use them: that the
micro-operations compute exactly these is a claim. -/

namespace Sys2Proof.Machine

/-! ## Derivation of the parameters -/

/-- What `INIT` derives from the parameters (R102). -/
structure Derived where
  pw0 : Nat
  pw1 : Nat
  mod0 : Nat
  mod1 : Nat
  blk : Nat
  path : Path
  deriving DecidableEq, Repr

/-- `Derive(keylen, radix, width, rounds)`: the first error that applies, or the derived tuple (R91, R102, R150). -/
def derive (keylen radix width rounds : Nat) : Except ErrCode Derived :=
  if keylen ∉ Config.keylens then .error .invalidKeyLength
  else if radix < 2 ∨ width < 1 ∨ rounds < 1 then .error .invalidParameters
  else if Config.modMax < radix ^ halfUp width then .error .capacityExceeded
  else
    let mod0 := radix ^ halfUp width
    let mod1 := radix ^ halfDown width
    .ok { pw0 := halfUp width, pw1 := halfDown width, mod0, mod1, blk := mod0 * mod1, path := pathOf (mod0 * mod1) }

/-! ## One configuration and its permutation -/

/-- The part of the active configuration that a pass depends on (R123). -/
structure Cfg where
  key : List Byte
  rounds : Nat
  mod0 : Nat
  mod1 : Nat
  path : Path
  deriving DecidableEq, Repr

/-- `MOD[i]` of a configuration. -/
def Cfg.modulus (c : Cfg) : Half → Nat
  | .lo => c.mod0
  | .hi => c.mod1

/-- `BLKSZ = MOD[0] * MOD[1]` (R29). -/
def Cfg.blksz (c : Cfg) : Nat := c.mod0 * c.mod1

/-- The configuration in the active registers. -/
def State.cfg (s : State) : Cfg where
  key := s.activeKey
  rounds := s.aRounds.toNat
  mod0 := s.mod0.toNat
  mod1 := s.mod1.toNat
  path := s.path

/-- The two work values of a pass, `(w[0], w[1])` (R116). -/
structure Pair where
  lo : Nat
  hi : Nat
  deriving DecidableEq, Repr

/-- `w[i]`. -/
def Pair.get (p : Pair) : Half → Nat
  | .lo => p.lo
  | .hi => p.hi

/-- `w[i] <- v`. -/
def Pair.put (p : Pair) (i : Half) (v : Nat) : Pair :=
  match i with
  | .lo => { p with lo := v }
  | .hi => { p with hi := v }

/-- `Raw(key, path, round_num, work_value)` (R104). -/
def rawValue (cipher : Cipher) (key : List Byte) (path : Path) (round workValue : Nat) : Nat :=
  unpackBlock path (cipher key (packBlock round workValue))

/-- `round_output(work_value, round_num, out_modulo)` under a key and a path (R111). -/
def roundOutput (cipher : Cipher) (key : List Byte) (path : Path) (workValue round outModulo : Nat) : Nat :=
  natMod (rawValue cipher key path round workValue) outModulo

/-- Forward round `r`, `F_r`: with `f = r mod 2` and `t = 1 - f`, `w[t]` gains the round's output (R130). -/
def forwardRound (cipher : Cipher) (c : Cfg) (r : Nat) (p : Pair) : Pair :=
  let f := Half.ofParity r
  let t := f.other
  p.put t (natMod (p.get t + roundOutput cipher c.key c.path (p.get f) r (c.modulus t)) (c.modulus t))

/-- Inverse round `r`, `G_r`: the same with a difference (R130). -/
def inverseRound (cipher : Cipher) (c : Cfg) (r : Nat) (p : Pair) : Pair :=
  let f := Half.ofParity r
  let t := f.other
  p.put t (modSub (p.get t) (roundOutput cipher c.key c.path (p.get f) r (c.modulus t)) (c.modulus t))

/-- The first `n` forward rounds, `0` to `n - 1` in ascending order (R116, R119). -/
def forwardPass (cipher : Cipher) (c : Cfg) : Nat → Pair → Pair
  | 0, p => p
  | n + 1, p => forwardRound cipher c n (forwardPass cipher c n p)

/-- The inverse rounds `n - 1` down to `0` (R127). -/
def inversePass (cipher : Cipher) (c : Cfg) : Nat → Pair → Pair
  | 0, p => p
  | n + 1, p => inversePass cipher c n (inverseRound cipher c n p)

/-- The split of a message: `w[0] = m mod MOD[0]`, `w[1] = (m div MOD[0]) mod MOD[1]` (R116). -/
def splitMessage (c : Cfg) (m : Nat) : Pair where
  lo := natMod m c.mod0
  hi := natMod (natDiv m c.mod0) c.mod1

/-- The join: `w[1] * MOD[0] + w[0]` (R116). -/
def joinPair (c : Cfg) (p : Pair) : Nat := p.hi * c.mod0 + p.lo

/-- `Encrypt(cfg, m)` (R123). -/
def encrypt (cipher : Cipher) (c : Cfg) (m : Nat) : Nat :=
  joinPair c (forwardPass cipher c c.rounds (splitMessage c m))

/-- `Decrypt(cfg, v)` (R131). -/
def decrypt (cipher : Cipher) (c : Cfg) (v : Nat) : Nat :=
  joinPair c (inversePass cipher c c.rounds (splitMessage c v))

/-! ## The cipher requests of a pass -/

/-- The request of round `r` when the work values at its start are `p` (R105, R107). -/
def roundRequest (c : Cfg) (r : Nat) (p : Pair) : CipherRequest where
  key := c.key
  pt := packBlock r (p.get (Half.ofParity r))

/-- The requests of the first `n` forward rounds, in ascending round order (R61). -/
def forwardRequests (cipher : Cipher) (c : Cfg) : Nat → Pair → List CipherRequest
  | 0, _ => []
  | n + 1, p => forwardRequests cipher c n p ++ [roundRequest c n (forwardPass cipher c n p)]

/-- The requests of the inverse rounds `n - 1` down to `0` (R61). -/
def inverseRequests (cipher : Cipher) (c : Cfg) : Nat → Pair → List CipherRequest
  | 0, _ => []
  | n + 1, p => roundRequest c n p :: inverseRequests cipher c n (inverseRound cipher c n p)

/-! ## Whole commands -/

/-- `INIT` as one function of the state at acceptance (R91). -/
def initResult (s : State) : State :=
  match derive s.keylen.toNat s.radix.toNat s.width.toNat s.rounds.toNat with
  | .ok d =>
    { s with
      aKeylen := s.keylen
      aKey := keepKey s.key s.keylen.toNat
      aRadix := s.radix
      aWidth := s.width
      aRounds := s.rounds
      pw0 := fit Config.widthW d.pw0
      pw1 := fit Config.widthW d.pw1
      mod0 := fit Config.modW d.mod0
      mod1 := fit Config.modW d.mod1
      blksz := fit Config.blkW d.blk
      path := d.path
      cfgValid := true
      err := ErrCode.ok.code
      lastop := 1
      phase := .idle }
  | .error e => { s with cfgValid := false, err := e.code, lastop := 1, phase := .idle }

/-- What the pass of a direction makes of a value under a configuration. -/
def passValue (cipher : Cipher) (c : Cfg) (dir : Dir) (m : Nat) : Nat :=
  match dir with
  | .forward => encrypt cipher c m
  | .inverse => decrypt cipher c m

/-- The cipher requests of the pass of a direction (R61). -/
def passRequests (cipher : Cipher) (c : Cfg) (dir : Dir) (m : Nat) : List CipherRequest :=
  match dir with
  | .forward => forwardRequests cipher c c.rounds (splitMessage c m)
  | .inverse => inverseRequests cipher c c.rounds (splitMessage c m)

/-- `ENC` (R116) or `DEC` (R127), by its direction, as one function of the state at acceptance. -/
def passResult (dir : Dir) (s : State) : State :=
  if s.cfgValid = false then
    { s with err := ErrCode.notConfigured.code, lastop := dir.opcode, phase := .idle }
  else if s.blksz.toNat ≤ s.din.toNat then
    { s with err := ErrCode.outOfRange.code, lastop := dir.opcode, phase := .idle }
  else
    { s with
      dout := fit Config.msgW (passValue Config.blockEncrypt s.cfg dir s.din.toNat)
      err := ErrCode.ok.code
      lastop := dir.opcode
      phase := .idle
      requests := s.requests ++ passRequests Config.blockEncrypt s.cfg dir s.din.toNat }

end Sys2Proof.Machine
end

