-- ==== Sys2Proof/Safety.lean ====
section
/-! DEFINITION. The terms in which claims speak of runs: the invariants of reachable states (R44, R133, R134), the end
of a run (R171), the state without its scratch registers (R43), and scripts that wait for every command (R172). -/

namespace Sys2Proof.Machine

/-! ## Invariants -/

/-- R44: while an engine is constructed, the active registers are what `INIT` derives from legal parameters. -/
abbrev ConfigInv (s : State) : Prop :=
  s.cfgValid = true →
    s.aKeylen.toNat ∈ Config.keylens ∧ 2 ≤ s.aRadix.toNat ∧ 1 ≤ s.aWidth.toNat ∧ 1 ≤ s.aRounds.toNat ∧
    s.pw0.toNat = halfUp s.aWidth.toNat ∧ s.pw1.toNat = halfDown s.aWidth.toNat ∧
    s.mod0.toNat = s.aRadix.toNat ^ s.pw0.toNat ∧ s.mod0.toNat ≤ Config.modMax ∧
    s.mod1.toNat = s.aRadix.toNat ^ s.pw1.toNat ∧
    s.blksz.toNat = s.mod0.toNat * s.mod1.toNat ∧ s.blksz.toNat = s.aRadix.toNat ^ s.aWidth.toNat ∧
    s.path = pathOf s.blksz.toNat

/-- The phases of `INIT` after the key length check. -/
def Phase.afterKeychk : Phase → Bool
  | .iParchk | .iWidths | .iExp | .iPath | .iCommit => true
  | _ => false

/-- The phases of `INIT` after the parameter check. -/
def Phase.afterParchk : Phase → Bool
  | .iWidths | .iExp | .iPath | .iCommit => true
  | _ => false

/-- The phases of `INIT` after the digit widths. -/
def Phase.afterWidths : Phase → Bool
  | .iExp | .iPath | .iCommit => true
  | _ => false

/-- The phases of a pass after its checks. -/
def Phase.afterCheck : Phase → Bool
  | .xSplit | .rPack | .rCiph | .rUnpack | .rReduce | .rMix | .xJoin => true
  | _ => false

/-- The phases of a pass after the split. -/
def Phase.afterSplit : Phase → Bool
  | .rPack | .rCiph | .rUnpack | .rReduce | .rMix | .xJoin => true
  | _ => false

/-- The five phases of a round. -/
def Phase.inRound : Phase → Bool
  | .rPack | .rCiph | .rUnpack | .rReduce | .rMix => true
  | _ => false

/-- A running `INIT`: the checks passed so far hold of the staging registers, and the scratch registers hold what the
micro-operations so far have computed (R92 to R98; for `I_EXP` the induction of R95). -/
abbrev InitInv (s : State) : Prop :=
  (s.phase.afterKeychk = true → s.keylen.toNat ∈ Config.keylens) ∧
  (s.phase.afterParchk = true → 2 ≤ s.radix.toNat ∧ 1 ≤ s.width.toNat ∧ 1 ≤ s.rounds.toNat) ∧
  (s.phase.afterWidths = true →
    s.tPw0.toNat = halfUp s.width.toNat ∧ s.tPw1.toNat = halfDown s.width.toNat) ∧
  (s.phase = .iExp →
    s.acc.toNat = s.radix.toNat ^ s.cnt.toNat ∧ s.acc.toNat ≤ Config.modMax ∧ s.cnt.toNat ≤ s.tPw0.toNat ∧
    (s.tPw1.toNat < s.cnt.toNat → s.tMod1.toNat = s.radix.toNat ^ s.tPw1.toNat)) ∧
  (s.phase = .iPath ∨ s.phase = .iCommit →
    s.tMod0.toNat = s.radix.toNat ^ s.tPw0.toNat ∧ s.tMod1.toNat = s.radix.toNat ^ s.tPw1.toNat ∧
    s.tMod0.toNat ≤ Config.modMax) ∧
  (s.phase = .iCommit →
    s.tBlk.toNat = s.tMod0.toNat * s.tMod1.toNat ∧ s.tPath = pathOf s.tBlk.toNat)

/-- A running pass: an engine exists and the operand is in range (R117); after the split the work values are below
their moduli (R133) and the indices differ (R134); in a round the round number is below `aROUNDS` (R38) and
`FROM = RND mod 2` (R134); at `R_MIX` the round output is below its modulus (R113). -/
abbrev PassInv (s : State) : Prop :=
  (s.phase.afterCheck = true → s.cfgValid = true ∧ s.din.toNat < s.blksz.toNat) ∧
  (s.phase.afterSplit = true →
    s.work0.toNat < s.mod0.toNat ∧ s.work1.toNat < s.mod1.toNat ∧ s.toIdx = s.fromIdx.other) ∧
  (s.phase.inRound = true → s.rnd.toNat < s.aRounds.toNat ∧ s.fromIdx = Half.ofParity s.rnd.toNat) ∧
  (s.phase = .rMix → s.delta.toNat < (s.modulus s.toIdx).toNat)

/-- The invariant of reachable states. `status` is R32: the codes 7 to 15 are never produced. -/
structure Inv (s : State) : Prop where
  config : ConfigInv s
  init : InitInv s
  pass : PassInv s
  status : s.err.toNat ≤ 6

/-! ## Runs -/

/-- A run has ended: the host has nothing more to do and `PHASE = IDLE` (R171). -/
abbrev RunEnded (s : State) : Prop := s.host = [] ∧ s.phase = .idle

/-- `k` steps from `s` end in the next state `t`. -/
abbrev RunsTo (k : Nat) (s t : State) : Prop := Host.Core.run Sys2Proof.core k s = .next t

/-- The step from `s` is the host's transaction `op`: it is the next one pending, and it is the host's turn. -/
abbrev HostMoves (s : State) (op : HostOp) : Prop := ∃ e ∈ s.host.head?, hostTurn s e = true ∧ e.op = op

/-! ## Parts of the state -/

/-- The state with every scratch register at one fixed value, so that states equal after it differ in scratch alone. -/
def State.clearScratch (s : State) : State :=
  { s with
    dir := .forward, rnd := 0, fromIdx := .lo, toIdx := .lo, work0 := 0, work1 := 0
    ptbuf := State.reset.ptbuf, ctbuf := State.reset.ctbuf, raw := 0, delta := 0
    acc := 0, cnt := 0, tPw0 := 0, tPw1 := 0, tMod0 := 0, tMod1 := 0, tBlk := 0, tPath := .small }

/-- Two states that differ in scratch registers alone (R43). -/
abbrev SameButScratch (s t : State) : Prop := s.clearScratch = t.clearScratch

/-- The state with the gaps of the pending host transactions erased. -/
def State.eraseGaps (s : State) : State :=
  { s with host := s.host.map fun e => { e with gap := 0 } }

/-- A script that honours every `WAIT`: each command is followed by one (R172). -/
def waitsForCommands : List HostOp → Bool
  | [] => true
  | .write wa _ :: rest =>
    (wa != Reg.cmd || (match rest with
      | .wait :: _ => true
      | _ => false)) && waitsForCommands rest
  | _ :: rest => waitsForCommands rest

/-- What a host sees in the key-free part of the engine: nothing of `KEY`, `aKEY` or scratch (R156). -/
def State.hideSecrets (s : State) : State :=
  { s.clearScratch with key := State.reset.key, aKey := State.reset.aKey }

end Sys2Proof.Machine
end

