-- ==== Sys2Proof/Certificates/Slice0/Obligations.lean ====
section
/-! DEFINITION. The statements for the provers. A result is written as the next state itself, `{ s with … }`, so that
each statement also says that every other register, the pending host transactions and the two records are unchanged
(the engine has no memory, R45); where a new value is described by an equation, `t = { s with r := t.r, … }` says it. A
completion is stated up to the scratch registers, which hold no value after it (R43): `SameButScratch`. -/

open Sys2Proof Sys2Proof.Machine

/-! ## Encodings -/

/-- R69, R70, R74: decoding the encoding of a well-formed instruction gives it back, for every instruction and every
value of an illegal word's two fields. That the encoding is bytes, four of a command word and one of a phase code, is
the model's choice (assumption 9). -/
def Obligations.DecodeEncodeRoundTrip : Prop :=
  ∀ i : Instr, i.wf = true → decode (encode i) = .ok i

/-- R70: the decoder of command words is total, and encoding what it reads gives the word back, as the four bytes that
the model's choice makes of it (assumption 9). -/
def Obligations.EncodeDecodeCommandWord : Prop :=
  ∀ d : BusWord, (decodeCommand d).wf = true ∧ encode (decodeCommand d) = commandBytes d

/-- R70: a word is illegal exactly when `d[31:4] ≠ 0` or `OP ≥ 4`; it keeps its two fields; an idle engine completes it
with `IllegalCommand` and starts nothing; every other word is one of the four commands. -/
def Obligations.EveryWordIsACommandOrIllegal : Prop :=
  ∀ d : BusWord,
    (d.toNat / 16 ≠ 0 ∨ 4 ≤ d.toNat % 16 →
      ∃ rsv op, decodeCommand d = .illegal rsv op ∧ rsv.toNat = d.toNat / 16 ∧ op.toNat = d.toNat % 16 ∧
        ∀ s : State, s.phase = .idle → exec (.illegal rsv op) s = .next { s with err := 5, lastop := op }) ∧
    (¬(d.toNat / 16 ≠ 0 ∨ 4 ≤ d.toNat % 16) →
      (d.toNat = 0 ∧ decodeCommand d = .nop) ∨ (d.toNat = 1 ∧ decodeCommand d = .init) ∨
      (d.toNat = 2 ∧ decodeCommand d = .enc) ∨ (d.toNat = 3 ∧ decodeCommand d = .dec))

/-- R69, R70, R74: words written out from the encoding tables decode to what they stand for. Phase code 0 names no
micro-operation and code 15 is unused: both, and bytes above 15, are refused by name. That a phase code is one byte and
a command word four, least significant first, is the model's choice (assumption 9). -/
def Obligations.WrittenOutWordsDecode : Prop :=
  decode [0x00, 0x00, 0x00, 0x00] = .ok .nop ∧ decode [0x01, 0x00, 0x00, 0x00] = .ok .init ∧
  decode [0x02, 0x00, 0x00, 0x00] = .ok .enc ∧ decode [0x03, 0x00, 0x00, 0x00] = .ok .dec ∧
  decode [0x11, 0x00, 0x00, 0x80] = .ok (.illegal 0x8000001 1) ∧
  decode [0x04] = .ok .iExp ∧ decode [0x0A] = .ok .rCiph ∧ decode [0x0C] = .ok .rReduce ∧ decode [0x0D] = .ok .rMix ∧
  decode [0x00] = .error .idlePhase ∧ decode [0x0F] = .error .unusedPhase ∧
  ∀ b : Byte, 16 ≤ b.toNat → decode [b] = .error .notAPhaseCode

/-! ## Steps -/

/-- R67, R83: when the host's turn has come and its transaction is a write to `CMD`, the step is `exec` of the instruction
the written bytes decode to, on the state without that transaction. That the host's transactions wait in a list with
gaps is the model's choice (assumption 2), the byte order of the word too (assumption 9). -/
def Obligations.StepRunsTheCommandWord : Prop :=
  ∀ (s : State) (gap : Nat) (d : BusWord) (rest : List HostEvent) (i : Instr),
    s.host = { gap := gap, op := .write Reg.cmd d } :: rest → s.phase = .idle ∨ gap = 0 →
    decode (commandBytes d) = .ok i → step s = exec i { s with host := rest }

/-- R74, R90: when `PHASE` holds the code of a micro-operation and it is not the host's turn, the step is `exec` of that
micro-operation; a pending transaction's gap counts one down (the model's choice, assumption 2). -/
def Obligations.StepRunsTheMicroOperation : Prop :=
  ∀ (s : State) (i : Instr), decode [s.phase.code.setWidth 8] = .ok i →
    (s.host = [] → step s = exec i s) ∧
    ∀ (e : HostEvent) (rest : List HostEvent), s.host = e :: rest → e.gap ≠ 0 ∨ e.op = .wait →
      step s = exec i { s with host := { e with gap := e.gap - 1 } :: rest }

/-- R90, R143: every state has a next state. Errors are results of commands, so no step faults or is refused. That an
idle engine without a host transaction steps to itself is the model's choice (assumption 4). -/
def Obligations.EveryStepAnswersNext : Prop :=
  ∀ s : State, ∃ t : State, step s = .next t

/-- R90: with `PHASE = IDLE` only the host can change the state; with nothing to do for the host the step leaves the
state as it is. That there is a step at all is the model's choice (assumption 4). -/
def Obligations.IdleEngineWaitsForTheHost : Prop :=
  ∀ s : State, RunEnded s → step s = .next s

/-! ## The host port -/

/-- R48: a read returns the word of the map and changes nothing, busy or idle. Its value is kept in the model's own record
(the model's choice, assumption 10). -/
def Obligations.ReadChangesNothing : Prop :=
  ∀ (s : State) (gap : Nat) (wa : WordIndex) (rest : List HostEvent),
    s.host = { gap := gap, op := .read wa } :: rest → s.phase = .idle ∨ gap = 0 →
    step s = .next { s with host := rest, reads := s.reads ++ [(wa, busRead s wa)] }

/-- R48, R52: write-only and reserved words read 0 in every state. -/
def Obligations.WriteOnlyAndReservedReadZero : Prop :=
  ∀ (s : State) (wa : WordIndex),
    wa.toNat = 0 ∨ (7 ≤ wa.toNat ∧ wa.toNat ≤ 15) ∨ (28 ≤ wa.toNat ∧ wa.toNat ≤ 31) ∨ wa.toNat = 35 ∨
      wa.toNat = 39 ∨ 45 ≤ wa.toNat →
    busRead s wa = 0

/-- R50: a write while busy is dropped for every word, `CMD` among them: nothing changes, nothing is recorded or queued.
That the meanings of the five commands themselves leave a busy state as it is, is how the model drops a command
(assumption 16, DEDUCED from R50 and R83). -/
def Obligations.WriteWhileBusyIsDropped : Prop :=
  (∀ (s : State) (wa : WordIndex) (d : BusWord) (rest : List HostEvent),
    s.host = { gap := 0, op := .write wa d } :: rest → s.phase ≠ .idle → step s = .next { s with host := rest }) ∧
  ∀ (s : State) (d : BusWord), s.phase ≠ .idle → exec (decodeCommand d) s = .next s

/-- R49, R53: an idle engine stores a write to a read-write word, of `WIDTH` the low 8 and of `KEYLEN` the low 6 bits;
the word then reads back what was stored, every other word reads as before, and nothing but that operand register
changes. A write to a read-only or reserved word changes nothing. -/
def Obligations.IdleWriteStoresItsWord : Prop :=
  ∀ (s : State) (gap : Nat) (wa : WordIndex) (d : BusWord) (rest : List HostEvent),
    s.host = { gap := gap, op := .write wa d } :: rest → s.phase = .idle → wa ≠ Reg.cmd →
    ∃ t : State, step s = .next t ∧
      t = { s with host := rest, radix := t.radix, width := t.width, rounds := t.rounds, keylen := t.keylen,
                   key := t.key, din := t.din } ∧
      (∀ wa' : WordIndex, wa' ≠ wa → busRead t wa' = busRead s wa') ∧
      (wa.toNat ∈ [2, 3, 5, 16, 17, 18, 19] → busRead t wa = d) ∧
      (wa.toNat = 4 → (busRead t wa).toNat = d.toNat % 2 ^ 8) ∧
      (wa.toNat = 6 → (busRead t wa).toNat = d.toNat % 2 ^ 6) ∧
      (wa.toNat < 8 ∨ 15 < wa.toNat → t.key = s.key) ∧
      (wa.toNat ∉ [2, 3, 4, 5, 6, 16, 17, 18, 19] → wa.toNat < 8 ∨ 15 < wa.toNat → t = { s with host := rest })

/-- R55: a write of `d` to `KEYj` sets the key bytes `4j` to `4j + 3` to the bytes of `d`, the lowest first, and changes
nothing else. -/
def Obligations.KeyWriteLaysBytesLittleEndian : Prop :=
  ∀ (s : State) (gap : Nat) (j : Nat) (d : BusWord) (rest : List HostEvent), j < 8 →
    s.host = { gap := gap, op := .write (Reg.key j) d } :: rest → s.phase = .idle →
    ∃ t : State, step s = .next t ∧ t = { s with host := rest, key := t.key } ∧
      ∀ k : Fin 32, t.key[k] =
        if k.val / 4 = j then BitVec.ofNat 8 (d.toNat / 2 ^ (8 * (k.val % 4))) else s.key[k]

/-- R54: multi-word registers are little-endian in words. The registers of one word read as their values, zero-extended
where they are narrower: `WIDTH`, `ROUNDS` and `KEYLEN` (R53), and `AROUNDS` at word 25 (R26, R51). -/
def Obligations.WideRegistersReadLittleEndian : Prop :=
  ∀ s : State,
    s.radix.toNat = (busRead s Reg.radixLo).toNat + 2 ^ 32 * (busRead s Reg.radixHi).toNat ∧
    s.din.toNat = (busRead s (Reg.din 0)).toNat + 2 ^ 32 * (busRead s (Reg.din 1)).toNat +
      2 ^ 64 * (busRead s (Reg.din 2)).toNat + 2 ^ 96 * (busRead s (Reg.din 3)).toNat ∧
    s.dout.toNat = (busRead s (Reg.dout 0)).toNat + 2 ^ 32 * (busRead s (Reg.dout 1)).toNat +
      2 ^ 64 * (busRead s (Reg.dout 2)).toNat + 2 ^ 96 * (busRead s (Reg.dout 3)).toNat ∧
    s.aRadix.toNat = (busRead s Reg.aRadixLo).toNat + 2 ^ 32 * (busRead s Reg.aRadixHi).toNat ∧
    s.mod0.toNat = (busRead s (Reg.mod0 0)).toNat + 2 ^ 32 * (busRead s (Reg.mod0 1)).toNat +
      2 ^ 64 * (busRead s (Reg.mod0 2)).toNat ∧
    s.mod1.toNat = (busRead s (Reg.mod1 0)).toNat + 2 ^ 32 * (busRead s (Reg.mod1 1)).toNat +
      2 ^ 64 * (busRead s (Reg.mod1 2)).toNat ∧
    s.blksz.toNat = (busRead s (Reg.blksz 0)).toNat + 2 ^ 32 * (busRead s (Reg.blksz 1)).toNat +
      2 ^ 64 * (busRead s (Reg.blksz 2)).toNat + 2 ^ 96 * (busRead s (Reg.blksz 3)).toNat +
      2 ^ 128 * (busRead s (Reg.blksz 4)).toNat ∧
    (busRead s Reg.width).toNat = s.width.toNat ∧ (busRead s Reg.rounds).toNat = s.rounds.toNat ∧
    (busRead s Reg.keylen).toNat = s.keylen.toNat ∧ (busRead s Reg.aRounds).toNat = s.aRounds.toNat

/-- R71: `BusRead(1) = BUSY + 2*CFG_VALID + 4*PATH + 16*LASTOP + 256*ERR`, which leaves the reserved bits 0; the word is
read-only. -/
def Obligations.StatusWordLayout : Prop :=
  ∀ s : State, (busRead s Reg.status).toNat =
      (if s.phase = .idle then 0 else 1) + 2 * (if s.cfgValid = true then 1 else 0) +
      4 * (if s.path = .large then 1 else 0) + 16 * s.lastop.toNat + 256 * s.err.toNat ∧
    ∀ d : BusWord, busWrite Reg.status d s = s

/-- R73: `BusRead(24) = PW[0] + 2^8 * PW[1] + 2^16 * aWIDTH + 2^24 * aKEYLEN`, which leaves the reserved bits 0; the
word is read-only. -/
def Obligations.CfginfoWordLayout : Prop :=
  ∀ s : State, (busRead s Reg.cfginfo).toNat =
      s.pw0.toNat + 2 ^ 8 * s.pw1.toNat + 2 ^ 16 * s.aWidth.toNat + 2 ^ 24 * s.aKeylen.toNat ∧
    ∀ d : BusWord, busWrite Reg.cfginfo d s = s

/-- R159, R160, R161: reset, in any state, busy ones included, puts the engine in the reset state in one step; every word
then reads 0, and an `INIT` straight after it fails with `InvalidKeyLength`. What the host has still to do and the two
records are not the engine's and stay (the model's choice, assumption 10). -/
def Obligations.ResetFromAnyState : Prop :=
  ∀ (s : State) (gap : Nat) (rest : List HostEvent),
    s.host = { gap := gap, op := .reset } :: rest → s.phase = .idle ∨ gap = 0 →
    ∃ t : State, step s = .next t ∧ t.host = rest ∧ t.reads = s.reads ∧ t.requests = s.requests ∧
      t.radix = 0 ∧ t.width = 0 ∧ t.rounds = 0 ∧ t.keylen = 0 ∧ t.din = 0 ∧ (∀ k : Fin 32, t.key[k] = 0) ∧
      t.cfgValid = false ∧ (∀ k : Fin 32, t.aKey[k] = 0) ∧ t.aKeylen = 0 ∧ t.aRadix = 0 ∧ t.aWidth = 0 ∧
      t.aRounds = 0 ∧ t.pw0 = 0 ∧ t.pw1 = 0 ∧ t.mod0 = 0 ∧ t.mod1 = 0 ∧ t.blksz = 0 ∧ t.path = .small ∧
      t.dout = 0 ∧ t.err = 0 ∧ t.lastop = 0 ∧ t.phase = .idle ∧ (∀ wa : WordIndex, busRead t wa = 0) ∧
      ∃ u : State, RunsTo 2 { t with host := [{ gap := 0, op := .write Reg.cmd 1 }] } u ∧
        u.phase = .idle ∧ u.err = 1 ∧ u.lastop = 1

/-- R63, R80: a `WAIT` ends in `IDLE` alone, with a read of `STATUS` whose `BUSY` bit is 0; until then the sequencer
steps. That the reads before that one leave no record is the model's choice (assumption 3). -/
def Obligations.WaitEndsWhenBusyIsZero : Prop :=
  ∀ (s : State) (gap : Nat) (rest : List HostEvent), s.host = { gap := gap, op := .wait } :: rest →
    (s.phase = .idle →
      step s = .next { s with host := rest, reads := s.reads ++ [(Reg.status, busRead s Reg.status)] } ∧
      (busRead s Reg.status).toNat % 2 = 0) ∧
    (s.phase ≠ .idle → ∃ t : State, step s = .next t ∧ t.reads = s.reads ∧
      t.host = { gap := gap - 1, op := .wait } :: rest)

/-! ## Commands at their acceptance -/

/-- R84: command word 0 is `NOP`, and it changes nothing. -/
def Obligations.NopChangesNothing : Prop :=
  decodeCommand 0x00000000 = .nop ∧ ∀ s : State, exec .nop s = .next s

/-- R85: in `IDLE` an illegal command word writes `ERR <- 5` and `LASTOP <- d[3:0]` and nothing else; the corner cases and
the example of the rule (its word `0x570` has the `PATH` bit 0; an engine of the large path that a failed `INIT` has
destroyed still shows that bit, R71). -/
def Obligations.IllegalCommandRecordsItsOpcode : Prop :=
  (∀ (s : State) (d : BusWord), s.phase = .idle → d.toNat / 16 ≠ 0 ∨ 4 ≤ d.toNat % 16 →
    exec (decodeCommand d) s = .next { s with err := 5, lastop := BitVec.ofNat 4 d.toNat }) ∧
  (∀ s : State, s.phase = .idle →
    exec (decodeCommand 0x00000010) s = .next { s with err := 5, lastop := 0 } ∧
    exec (decodeCommand 0x00000011) s = .next { s with err := 5, lastop := 1 } ∧
    ∃ t : State, exec (decodeCommand 0x00000007) s = .next t ∧
      (s.cfgValid = false → (busRead t Reg.status).toNat = 0x570 + if s.path = .large then 4 else 0))

/-- R86: command word 1 is `INIT`; an idle engine accepts it by `PHASE <- I_KEYCHK`, nothing else; `BUSY` reads 1 in
every phase but `IDLE`. -/
def Obligations.InitIsAccepted : Prop :=
  decodeCommand 0x00000001 = .init ∧
  (∀ s : State, s.phase = .idle → exec .init s = .next { s with phase := .iKeychk }) ∧
  ∀ s : State, s.phase ≠ .idle → (busRead s Reg.status).toNat % 2 = 1

/-- R87: command word 2 is `ENC`; an idle engine accepts it by `DIR <- 0; PHASE <- X_CHECK`, nothing else. -/
def Obligations.EncIsAccepted : Prop :=
  decodeCommand 0x00000002 = .enc ∧
  ∀ s : State, s.phase = .idle → exec .enc s = .next { s with dir := .forward, phase := .xCheck }

/-- R88: command word 3 is `DEC`; an idle engine accepts it by `DIR <- 1; PHASE <- X_CHECK`, nothing else. -/
def Obligations.DecIsAccepted : Prop :=
  decodeCommand 0x00000003 = .dec ∧
  ∀ s : State, s.phase = .idle → exec .dec s = .next { s with dir := .inverse, phase := .xCheck }

/-! ## The micro-operations of INIT -/

/-- R92: `I_KEYCHK` passes for the key lengths 16, 24 and 32, and completes with `InvalidKeyLength` for every other. -/
def Obligations.KeyLengthIsChecked : Prop :=
  ∀ s : State, s.phase = .iKeychk →
    (s.keylen = 16 ∨ s.keylen = 24 ∨ s.keylen = 32 → exec .iKeychk s = .next { s with phase := .iParchk }) ∧
    (¬(s.keylen = 16 ∨ s.keylen = 24 ∨ s.keylen = 32) →
      ∃ t : State, exec .iKeychk s = .next t ∧
        SameButScratch t { s with err := 1, lastop := 1, cfgValid := false, phase := .idle })

/-- R93: `I_PARCHK` passes when `RADIX ≥ 2`, `WIDTH ≥ 1` and `ROUNDS ≥ 1`, and completes with `InvalidParameters`
otherwise. -/
def Obligations.ParametersAreChecked : Prop :=
  ∀ s : State, s.phase = .iParchk →
    (2 ≤ s.radix.toNat ∧ 1 ≤ s.width.toNat ∧ 1 ≤ s.rounds.toNat →
      exec .iParchk s = .next { s with phase := .iWidths }) ∧
    (s.radix.toNat < 2 ∨ s.width.toNat < 1 ∨ s.rounds.toNat < 1 →
      ∃ t : State, exec .iParchk s = .next t ∧
        SameButScratch t { s with err := 2, lastop := 1, cfgValid := false, phase := .idle })

/-- R94: `I_WIDTHS` derives the two digit widths, the ceiling and the floor of half the width, and starts the
exponentiation at power 0. -/
def Obligations.DigitWidthsAreHalves : Prop :=
  ∀ s : State, ∃ t : State, exec .iWidths s = .next t ∧
    t = { s with tPw0 := t.tPw0, tPw1 := t.tPw1, acc := 1, cnt := 0, phase := .iExp } ∧
    t.tPw0.toNat = (s.width.toNat + 1) / 2 ∧ t.tPw1.toNat = s.width.toNat / 2 ∧
    t.tPw0.toNat + t.tPw1.toNat = s.width.toNat ∧
    (t.tPw0.toNat = t.tPw1.toNat ∨ t.tPw0.toNat = t.tPw1.toNat + 1) ∧
    t.tPw0.toNat ≤ 128 ∧ t.tPw1.toNat ≤ 127 ∧ (1 ≤ s.width.toNat → 1 ≤ t.tPw0.toNat)

/-- R95: one step of the exponentiation, in a state with `ACC ≤ 2^64` and `CNT ≤ T_PW[0]` as the rule has it at the start
of every `I_EXP`: the capacity error, one more multiplication, or the last power. -/
def Obligations.ExponentiationStep : Prop :=
  ∀ s : State, s.phase = .iExp → s.acc.toNat ≤ 2 ^ 64 → s.cnt.toNat ≤ s.tPw0.toNat →
    (s.cnt.toNat < s.tPw0.toNat → 2 ^ 64 < s.acc.toNat * s.radix.toNat →
      ∃ t : State, exec .iExp s = .next t ∧
        SameButScratch t { s with err := 6, lastop := 1, cfgValid := false, phase := .idle }) ∧
    (s.cnt.toNat < s.tPw0.toNat → s.acc.toNat * s.radix.toNat ≤ 2 ^ 64 →
      ∃ t : State, exec .iExp s = .next t ∧ t = { s with tMod1 := t.tMod1, acc := t.acc, cnt := t.cnt } ∧
        t.acc.toNat = s.acc.toNat * s.radix.toNat ∧ t.cnt.toNat = s.cnt.toNat + 1 ∧
        (s.cnt = s.tPw1 → t.tMod1.toNat = s.acc.toNat) ∧ (s.cnt ≠ s.tPw1 → t.tMod1 = s.tMod1)) ∧
    (s.cnt = s.tPw0 →
      ∃ t : State, exec .iExp s = .next t ∧ t = { s with tMod0 := t.tMod0, tMod1 := t.tMod1, phase := .iPath } ∧
        t.tMod0.toNat = s.acc.toNat ∧
        (s.cnt = s.tPw1 → t.tMod1.toNat = s.acc.toNat) ∧ (s.cnt ≠ s.tPw1 → t.tMod1 = s.tMod1))

/-- R98: `I_PATH` multiplies the two moduli, which are at most `2^64`, and selects the small path exactly when the product
is below `2^32`, or below `2^64` and a divisor of `2^128`. -/
def Obligations.PathIsSelectedByBlockSize : Prop :=
  ∀ s : State, s.tMod0.toNat ≤ 2 ^ 64 → s.tMod1.toNat ≤ 2 ^ 64 →
    ∃ t : State, exec .iPath s = .next t ∧ t = { s with tBlk := t.tBlk, tPath := t.tPath, phase := .iCommit } ∧
      t.tBlk.toNat = s.tMod0.toNat * s.tMod1.toNat ∧
      (t.tPath = .small ↔ t.tBlk.toNat < 2 ^ 32 ∨ (t.tBlk.toNat < 2 ^ 64 ∧ t.tBlk.toNat ∣ 2 ^ 128))

/-- R100: `I_COMMIT` copies the staging registers and the derived values into the active configuration, the key bytes at
and above `KEYLEN` as 0, and completes `INIT` with success. -/
def Obligations.CommitBuildsTheConfiguration : Prop :=
  ∀ s : State, s.phase = .iCommit → ∃ t : State, exec .iCommit s = .next t ∧
    SameButScratch t { s with
      aKeylen := s.keylen, aKey := t.aKey, aRadix := s.radix, aWidth := s.width, aRounds := s.rounds,
      pw0 := s.tPw0, pw1 := s.tPw1, mod0 := s.tMod0, mod1 := s.tMod1, blksz := s.tBlk, path := s.tPath,
      cfgValid := true, err := 0, lastop := 1, phase := .idle } ∧
    ∀ k : Fin 32, t.aKey[k] = if k.val < s.keylen.toNat then s.key[k] else 0

/-! ## The micro-operations of a pass -/

/-- R117: `X_CHECK` completes with `NotConfigured` without an engine, with `OutOfRange` for `DIN ≥ BLKSZ`, and passes
otherwise; the opcode recorded is that of the direction. -/
def Obligations.EngineAndRangeAreChecked : Prop :=
  ∀ s : State, s.phase = .xCheck →
    (s.cfgValid = false →
      ∃ t : State, exec .xCheck s = .next t ∧
        SameButScratch t { s with err := 4, lastop := (if s.dir = .forward then 2 else 3), phase := .idle }) ∧
    (s.cfgValid = true → s.blksz.toNat ≤ s.din.toNat →
      ∃ t : State, exec .xCheck s = .next t ∧
        SameButScratch t { s with err := 3, lastop := (if s.dir = .forward then 2 else 3), phase := .idle }) ∧
    (s.cfgValid = true → s.din.toNat < s.blksz.toNat → exec .xCheck s = .next { s with phase := .xSplit })

/-- R118 forward: with moduli between 1 and `2^64`, `X_SPLIT` sets `WORK` to the mixed-radix parts of `DIN` and starts
the rounds at 0 with `FROM = 0`, `TO = 1`. -/
def Obligations.SplitStartsTheForwardPass : Prop :=
  ∀ s : State, 1 ≤ s.mod0.toNat → s.mod0.toNat ≤ 2 ^ 64 → 1 ≤ s.mod1.toNat → s.mod1.toNat ≤ 2 ^ 64 →
    s.dir = .forward →
    ∃ t : State, exec .xSplit s = .next t ∧
      t = { s with work0 := t.work0, work1 := t.work1, rnd := 0, fromIdx := .lo, toIdx := .hi, phase := .rPack } ∧
      t.work0.toNat = s.din.toNat % s.mod0.toNat ∧
      t.work1.toNat = s.din.toNat / s.mod0.toNat % s.mod1.toNat

/-- R128: in the inverse direction the split is the same, and the rounds start at `aROUNDS - 1` with
`FROM = (aROUNDS - 1) mod 2` and `TO = aROUNDS mod 2`. -/
def Obligations.SplitStartsTheInversePass : Prop :=
  ∀ s : State, 1 ≤ s.mod0.toNat → s.mod0.toNat ≤ 2 ^ 64 → 1 ≤ s.mod1.toNat → s.mod1.toNat ≤ 2 ^ 64 →
    s.dir = .inverse → 1 ≤ s.aRounds.toNat →
    ∃ t : State, exec .xSplit s = .next t ∧
      t = { s with work0 := t.work0, work1 := t.work1, rnd := t.rnd, fromIdx := t.fromIdx, toIdx := t.toIdx,
                   phase := .rPack } ∧
      t.work0.toNat = s.din.toNat % s.mod0.toNat ∧
      t.work1.toNat = s.din.toNat / s.mod0.toNat % s.mod1.toNat ∧
      t.rnd.toNat = s.aRounds.toNat - 1 ∧
      (s.aRounds.toNat % 2 = 1 → t.fromIdx = .lo ∧ t.toIdx = .hi) ∧
      (s.aRounds.toNat % 2 = 0 → t.fromIdx = .hi ∧ t.toIdx = .lo)

/-- R105: `R_PACK` lays `RND` into bytes 0 to 7 and `WORK[FROM]` into bytes 8 to 15, each least significant byte first,
and bytes 4 to 7 are 0; as one little-endian integer the block is `RND + 2^64 * WORK[FROM]` (R77). -/
def Obligations.PackLaysOutTheBlock : Prop :=
  ∀ s : State, ∃ t : State, exec .rPack s = .next t ∧ t = { s with ptbuf := t.ptbuf, phase := .rCiph } ∧
    (∀ k : Fin 16, t.ptbuf[k].toNat =
      (if k.val < 8 then s.rnd.toNat / 2 ^ (8 * k.val)
       else (s.work s.fromIdx).toNat / 2 ^ (8 * (k.val - 8))) % 2 ^ 8) ∧
    (∀ k : Fin 16, 4 ≤ k.val → k.val < 8 → t.ptbuf[k] = 0) ∧
    fromLE t.ptbuf.toList = s.rnd.toNat + 2 ^ 64 * (s.work s.fromIdx).toNat

/-- R107: `R_CIPH` makes one cipher request, with the active key and `PTBUF`, and stores the answer in `CTBUF`. -/
def Obligations.CipherIsCalledOnce : Prop :=
  ∀ s : State, exec .rCiph s = .next { s with
    ctbuf := Config.blockEncrypt (s.aKey.toList.take s.aKeylen.toNat) s.ptbuf
    requests := s.requests ++ [{ key := s.aKey.toList.take s.aKeylen.toNat, pt := s.ptbuf }]
    phase := .rUnpack }

/-- R108: `R_UNPACK` takes the low 64 bits of `CTBUF` on the small path, and all 128 bits, the low half first, on the
large path. -/
def Obligations.UnpackTakesLowOrAllBytes : Prop :=
  ∀ s : State, ∃ t : State, exec .rUnpack s = .next t ∧ t = { s with raw := t.raw, phase := .rReduce } ∧
    (s.path = .small → t.raw.toNat = fromLE (s.ctbuf.toList.take 8) ∧ t.raw.toNat < 2 ^ 64) ∧
    (s.path = .large →
      t.raw.toNat = fromLE (s.ctbuf.toList.take 8) + 2 ^ 64 * fromLE (s.ctbuf.toList.drop 8)) ∧
    (∀ p : Path, s.path = p → t.raw.toNat % 2 ^ 64 = fromLE s.ctbuf.toList % 2 ^ 64)

/-- R112, R113: `R_REDUCE` sets `DELTA` to the remainder of `RAW` by `MOD[TO]`, for a modulus between 1 and `2^64`. -/
def Obligations.ReduceTakesTheRemainder : Prop :=
  ∀ s : State, 1 ≤ (s.modulus s.toIdx).toNat → (s.modulus s.toIdx).toNat ≤ 2 ^ 64 →
    ∃ t : State, exec .rReduce s = .next t ∧ t = { s with delta := t.delta, phase := .rMix } ∧
      t.delta.toNat = s.raw.toNat % (s.modulus s.toIdx).toNat ∧ t.delta.toNat < (s.modulus s.toIdx).toNat

/-- R121: `R_MIX` forward, with `WORK[TO]` and `DELTA` below `MOD[TO] ≤ 2^64` and `RND < aROUNDS`: the sum with at most
one subtraction of the modulus, the indices swapped, the other half untouched; the pass ends after round `aROUNDS - 1`,
else the round number goes up by one. -/
def Obligations.MixAddsForward : Prop :=
  ∀ s : State, s.dir = .forward → (s.work s.toIdx).toNat < (s.modulus s.toIdx).toNat →
    s.delta.toNat < (s.modulus s.toIdx).toNat → (s.modulus s.toIdx).toNat ≤ 2 ^ 64 →
    s.rnd.toNat < s.aRounds.toNat →
    ∃ t : State, exec .rMix s = .next t ∧
      t = { s with work0 := t.work0, work1 := t.work1, rnd := t.rnd, fromIdx := s.toIdx, toIdx := s.fromIdx,
                   phase := t.phase } ∧
      t.work s.toIdx.other = s.work s.toIdx.other ∧
      (t.work s.toIdx).toNat = ((s.work s.toIdx).toNat + s.delta.toNat) % (s.modulus s.toIdx).toNat ∧
      ((s.work s.toIdx).toNat + s.delta.toNat < (s.modulus s.toIdx).toNat →
        (t.work s.toIdx).toNat = (s.work s.toIdx).toNat + s.delta.toNat) ∧
      ((s.modulus s.toIdx).toNat ≤ (s.work s.toIdx).toNat + s.delta.toNat →
        (t.work s.toIdx).toNat = (s.work s.toIdx).toNat + s.delta.toNat - (s.modulus s.toIdx).toNat) ∧
      (s.rnd.toNat + 1 = s.aRounds.toNat → t.phase = .xJoin ∧ t.rnd = s.rnd) ∧
      (s.rnd.toNat + 1 ≠ s.aRounds.toNat → t.phase = .rPack ∧ t.rnd.toNat = s.rnd.toNat + 1)

/-- R129: `R_MIX` inverse, with `WORK[TO]` and `DELTA` below `MOD[TO] ≤ 2^64`: the difference, with the modulus added
where it would be negative; the indices swapped, the other half untouched; the pass ends after round 0, else the round
number goes down by one. -/
def Obligations.MixSubtractsInverse : Prop :=
  ∀ s : State, s.dir = .inverse → (s.work s.toIdx).toNat < (s.modulus s.toIdx).toNat →
    s.delta.toNat < (s.modulus s.toIdx).toNat → (s.modulus s.toIdx).toNat ≤ 2 ^ 64 →
    ∃ t : State, exec .rMix s = .next t ∧
      t = { s with work0 := t.work0, work1 := t.work1, rnd := t.rnd, fromIdx := s.toIdx, toIdx := s.fromIdx,
                   phase := t.phase } ∧
      t.work s.toIdx.other = s.work s.toIdx.other ∧
      (s.delta.toNat ≤ (s.work s.toIdx).toNat →
        (t.work s.toIdx).toNat = (s.work s.toIdx).toNat - s.delta.toNat) ∧
      ((s.work s.toIdx).toNat < s.delta.toNat →
        (t.work s.toIdx).toNat = (s.work s.toIdx).toNat + (s.modulus s.toIdx).toNat - s.delta.toNat) ∧
      (s.rnd.toNat = 0 → t.phase = .xJoin ∧ t.rnd = s.rnd) ∧
      (s.rnd.toNat ≠ 0 → t.phase = .rPack ∧ t.rnd.toNat = s.rnd.toNat - 1)

/-- R122: `X_JOIN`, with the work values below their moduli and a block size of at most `2^128`, writes
`DOUT <- WORK[1] * MOD[0] + WORK[0]`, which is below the block size, and completes with success in the same step. -/
def Obligations.JoinWritesTheResult : Prop :=
  ∀ s : State, s.phase = .xJoin → s.work0.toNat < s.mod0.toNat → s.work1.toNat < s.mod1.toNat →
    s.mod0.toNat * s.mod1.toNat ≤ 2 ^ 128 →
    ∃ t : State, exec .xJoin s = .next t ∧
      SameButScratch t
        { s with dout := t.dout, err := 0, lastop := (if s.dir = .forward then 2 else 3), phase := .idle } ∧
      t.dout.toNat = s.work1.toNat * s.mod0.toNat + s.work0.toNat ∧
      t.dout.toNat < s.mod0.toNat * s.mod1.toNat

/-! ## Completion with an error -/

/-- R151: a micro-operation that completes its command with an error records the code and the opcode, clears `CFG_VALID`
exactly when the command is `INIT`, and leaves every register but scratch as it was: staging, `DIN`, `DOUT` and the
active configuration. -/
def Obligations.ErrorChangesOnlyStatus : Prop :=
  ∀ (s t : State) (i : Instr), decode [s.phase.code.setWidth 8] = .ok i → exec i s = .next t →
    t.phase = .idle → t.err ≠ 0 →
    SameButScratch t
      { s with err := t.err, lastop := (if s.phase.ofInit then 1 else if s.dir = .forward then 2 else 3),
               cfgValid := (if s.phase.ofInit then false else s.cfgValid), phase := .idle } ∧
    (s.phase.ofInit = true → t.err = 1 ∨ t.err = 2 ∨ t.err = 6) ∧
    (s.phase.ofInit = false → t.err = 3 ∨ t.err = 4)

/-! ## Whole commands -/

/-- R91, R142: from its acceptance, with the host silent, `INIT` computes exactly the function of R91, all its three
errors and their order included, in the number of micro-operations of R142. -/
def Obligations.InitComputesTheDerivation : Prop :=
  ∀ s : State, s.phase = .iKeychk → s.host = [] →
    ∃ (k : Nat) (t : State), RunsTo k s t ∧ SameButScratch t (initResult s) ∧
      (t.err = 1 → k = 1) ∧ (t.err = 2 → k = 2) ∧
      (t.err = 6 → ∃ j, k = 3 + j ∧ 2 ^ 64 < s.radix.toNat ^ j ∧ ∀ i < j, s.radix.toNat ^ i ≤ 2 ^ 64) ∧
      (t.err = 0 → k = 6 + halfUp s.width.toNat)

/-- R116, R127, R142, R61: from its acceptance, with the host silent and the invariant of reachable states, `ENC` or
`DEC`, by `DIR`, computes exactly the function of R116 or R127, with its cipher requests in their order, in one
micro-operation for an error and `3 + 5 * aROUNDS` otherwise. -/
def Obligations.PassComputesItsFunction : Prop :=
  ∀ (s : State) (dir : Dir), Inv s → s.phase = .xCheck → s.dir = dir → s.host = [] →
    ∃ t : State, SameButScratch t (passResult dir s) ∧
      (s.cfgValid = false ∨ s.blksz.toNat ≤ s.din.toNat → RunsTo 1 s t) ∧
      (s.cfgValid = true → s.din.toNat < s.blksz.toNat → RunsTo (3 + 5 * s.aRounds.toNat) s t)

/-- R61: a pass that succeeds makes exactly `aROUNDS` requests, for the rounds in ascending order in `ENC` and in
descending order in `DEC`: bytes 0 to 7 of request `n` hold the round number, and every request carries the key. -/
def Obligations.RequestsFollowTheRounds : Prop :=
  ∀ (cipher : Cipher) (c : Cfg) (dir : Dir) (m : Nat), c.rounds < 2 ^ 32 →
    (passRequests cipher c dir m).length = c.rounds ∧
    ∀ (n : Nat) (r : CipherRequest), (passRequests cipher c dir m)[n]? = some r → r.key = c.key ∧
      fromLE (r.pt.toList.take 8) = (match dir with
        | .forward => n
        | .inverse => c.rounds - 1 - n)

/-! ## The permutation -/

/-- R103: split and join are inverse bijections between `[0, BLKSZ)` and the pairs with `w[i] < MOD[i]`. -/
def Obligations.SplitAndJoinAreInverse : Prop :=
  ∀ c : Cfg, 1 ≤ c.mod0 → 1 ≤ c.mod1 →
    (∀ m < c.blksz, (splitMessage c m).lo < c.mod0 ∧ (splitMessage c m).hi < c.mod1 ∧
      joinPair c (splitMessage c m) = m) ∧
    ∀ p : Pair, p.lo < c.mod0 → p.hi < c.mod1 → joinPair c p < c.blksz ∧ splitMessage c (joinPair c p) = p

/-- R136, R131: whatever the cipher, `Decrypt(cfg, Encrypt(cfg, m)) = m` and `Encrypt(cfg, Decrypt(cfg, m)) = m` for
every `m` in `[0, BLKSZ)`, for every configuration with moduli of at least 1 and any number of rounds. -/
def Obligations.DecryptInvertsEncrypt : Prop :=
  ∀ (cipher : Cipher) (c : Cfg), 1 ≤ c.mod0 → 1 ≤ c.mod1 → ∀ m < c.blksz,
    decrypt cipher c (encrypt cipher c m) = m ∧ encrypt cipher c (decrypt cipher c m) = m

/-- R137: for a fixed configuration, `Encrypt` is a bijection of `[0, BLKSZ)` onto itself, `Decrypt` too, and `Decrypt`
is the two-sided inverse of `Encrypt`. -/
def Obligations.EncryptIsAPermutation : Prop :=
  ∀ (cipher : Cipher) (c : Cfg), 1 ≤ c.mod0 → 1 ≤ c.mod1 →
    Set.BijOn (encrypt cipher c) { m | m < c.blksz } { m | m < c.blksz } ∧
    Set.BijOn (decrypt cipher c) { m | m < c.blksz } { m | m < c.blksz } ∧
    Set.InvOn (decrypt cipher c) (encrypt cipher c) { m | m < c.blksz } { m | m < c.blksz }

/-- R99: where the modulus divides `2^64` both paths reduce to the same value; hence for a block size that is a power of
two and moduli of at most `2^64` the path changes no result of `ENC` or `DEC`. -/
def Obligations.PathIsInvisibleForPowersOfTwo : Prop :=
  (∀ (cipher : Cipher) (key : List Byte) (w r m : Nat), 1 ≤ m → m ∣ 2 ^ 64 →
    roundOutput cipher key .small w r m = roundOutput cipher key .large w r m) ∧
  ∀ (cipher : Cipher) (c : Cfg) (k : Nat), c.blksz = 2 ^ k → c.mod0 ≤ 2 ^ 64 → c.mod1 ≤ 2 ^ 64 →
    ∀ (p : Path) (m : Nat), encrypt cipher { c with path := p } m = encrypt cipher c m ∧
      decrypt cipher { c with path := p } m = decrypt cipher c m

/-- R125: with `MOD[1] = 1` (width 1) the pass is a rotation of the domain by a constant, and the identity when there is
one round; with one round only the high part changes, by the output of round 0. -/
def Obligations.EdgeConfigurationsOfThePass : Prop :=
  ∀ (cipher : Cipher) (c : Cfg), 1 ≤ c.mod0 → 1 ≤ c.mod1 →
    (c.mod1 = 1 →
      (∃ rot : Nat, ∀ m < c.mod0, encrypt cipher c m = (m + rot) % c.mod0) ∧
      (c.rounds = 1 → ∀ m < c.mod0, encrypt cipher c m = m)) ∧
    (c.rounds = 1 → ∀ m < c.blksz,
      encrypt cipher c m % c.mod0 = m % c.mod0 ∧
      encrypt cipher c m / c.mod0 =
        (m / c.mod0 + roundOutput cipher c.key c.path (m % c.mod0) 0 c.mod1) % c.mod1)

/-! ## Parameters -/

/-- R96, R98, R29: what `Derive` accepts has moduli that are exact powers between 1 and `2^64`, the larger first, and a
block size of `radix^width`, at most `2^128`. -/
def Obligations.DerivedValuesAreExact : Prop :=
  ∀ (keylen radix width rounds : Nat) (d : Derived), derive keylen radix width rounds = .ok d →
    d.pw0 + d.pw1 = width ∧ d.mod0 = radix ^ d.pw0 ∧ d.mod1 = radix ^ d.pw1 ∧ 1 ≤ d.mod1 ∧ d.mod1 ≤ d.mod0 ∧
    2 ≤ d.mod0 ∧ d.mod0 ≤ 2 ^ 64 ∧ d.blk = radix ^ width ∧ d.blk ≤ 2 ^ 128 ∧ d.path = pathOf (radix ^ width) ∧
    (width % 2 = 0 → d.mod0 = d.mod1) ∧ (width % 2 = 1 → d.mod0 = radix * d.mod1) ∧ (d.mod1 = 1 ↔ width = 1)

/-- R97: the bounds at which the capacity ends, for radix 2, radix 10 and the largest radices. -/
def Obligations.CapacityEndsWhereStated : Prop :=
  ∀ keylen radix width rounds : Nat, keylen = 16 ∨ keylen = 24 ∨ keylen = 32 → 2 ≤ radix → 1 ≤ width → 1 ≤ rounds →
    (derive keylen radix width rounds = .error .capacityExceeded ↔ 2 ^ 64 < radix ^ ((width + 1) / 2)) ∧
    (derive keylen 2 width rounds = .error .capacityExceeded ↔ 128 < width) ∧
    (derive keylen 10 width rounds = .error .capacityExceeded ↔ 38 < width) ∧
    (2 ^ 32 + 1 ≤ radix → radix < 2 ^ 64 →
      (derive keylen radix width rounds = .error .capacityExceeded ↔ 2 < width))

/-! ## Invariants -/

/-- R44, R160: the invariant holds after reset. -/
def Obligations.InvariantHoldsAtReset : Prop := Inv State.reset

/-- R44, R95, R133, R134, R38, R32: every step keeps the invariant, from every state in which it holds, whatever the host
does: the active configuration is what `INIT` derives, work values stay below their moduli, the indices alternate with
the round number, and no reserved error code appears. -/
def Obligations.EveryStepKeepsTheInvariant : Prop :=
  ∀ s t : State, Inv s → Sys2Proof.Machine.step s = .next t → Inv t

/-- R101: no step but the sequencer's `I_COMMIT` and the host's reset changes an active-configuration register; the host
may act while `PHASE = I_COMMIT`, and a reset may be pending. `CFG_VALID` is otherwise only cleared, by a step of the
sequencer that completes an `INIT`. -/
def Obligations.ConfigurationIsImmutable : Prop :=
  ∀ s t : State, step s = .next t → ¬HostMoves s .reset → (s.phase = .iCommit → ∃ op, HostMoves s op) →
    t.aKey = s.aKey ∧ t.aKeylen = s.aKeylen ∧ t.aRadix = s.aRadix ∧ t.aWidth = s.aWidth ∧ t.aRounds = s.aRounds ∧
    t.pw0 = s.pw0 ∧ t.pw1 = s.pw1 ∧ t.mod0 = s.mod0 ∧ t.mod1 = s.mod1 ∧ t.blksz = s.blksz ∧ t.path = s.path ∧
    (t.cfgValid = s.cfgValid ∨
      ((∀ op, ¬HostMoves s op) ∧ s.phase.ofInit = true ∧ t.cfgValid = false ∧ t.phase = .idle))

/-- R58, R90, D10: while a command runs, nothing the host can see changes but in the step that completes it: after a step
that leaves the engine busy, and for which it was busy, every word reads as before. -/
def Obligations.RunningCommandIsInvisible : Prop :=
  ∀ s t : State, step s = .next t → s.phase ≠ .idle → t.phase ≠ .idle → ∀ wa : WordIndex, busRead t wa = busRead s wa

/-- R22, R25, R43, R156: no word of the register space depends on the key, staged or active, or on scratch. -/
def Obligations.KeyAndScratchAreHidden : Prop :=
  ∀ s t : State, s.hideSecrets = t.hideSecrets → ∀ wa : WordIndex, busRead s wa = busRead t wa

/-- R43: no result depends on a scratch value from an earlier command: from idle states that differ in scratch alone, any
number of steps ends in states that differ in scratch alone. -/
def Obligations.OldScratchNeverMatters : Prop :=
  ∀ s t : State, s.phase = .idle → SameButScratch s t → ∀ (k : Nat) (s' : State), RunsTo k s s' →
    ∃ t' : State, RunsTo k t t' ∧ SameButScratch s' t'

/-- R138: for a script that waits for every command, the number of sequencer steps the host lets pass before its
transactions changes nothing but those numbers: the same reads, the same requests, the same registers. The list of
transactions and its gaps are the model's choice (assumptions 2 and 3). A script that reads between a command and its
`WAIT` is not one of these: such a read of `STATUS` or `DOUT` shows whether the command has completed (R58). -/
def Obligations.InterleavingNeverMatters : Prop :=
  ∀ s t : State, s.phase = .idle → s.eraseGaps = t.eraseGaps →
    waitsForCommands (s.host.map HostEvent.op) = true → ∀ (k : Nat) (s' : State), RunsTo k s s' →
    ∃ t' : State, RunsTo k t t' ∧ s'.eraseGaps = t'.eraseGaps

/-- R142, R170: from every state of the invariant, with the host silent, the running command completes, within
`3 + 5 * 2^32` steps. It rests on the fairness of R170, which the model builds into its step: the sequencer and the
cipher always take theirs (assumption 15, unsafe for this statement). -/
def Obligations.EveryCommandCompletes : Prop :=
  ∀ s : State, Inv s → s.host = [] →
    ∃ (k : Nat) (t : State), k ≤ 3 + 5 * 2 ^ 32 ∧ RunsTo k s t ∧ t.phase = .idle

/-! ## Scripts at the host port -/

/-- R162, R81: from any idle state, the script `NEW` with a key of 16, 24 or 32 bytes and parameters within capacity
constructs the engine: it ends with `ERR = 0` and every register of the active configuration made of exactly those
arguments: the key with zeros above it, the parameters, the digit widths, the moduli, the block size and the path. -/
def Obligations.NewConstructsTheEngine : Prop :=
  ∀ (s : State) (key : List Byte) (rounds radix width : Nat),
    s.phase = .idle → s.host = Script.events (Script.new key rounds radix width) →
    key.length = 16 ∨ key.length = 24 ∨ key.length = 32 → 1 ≤ rounds → rounds < 2 ^ 32 → 2 ≤ radix → radix < 2 ^ 64 →
    1 ≤ width → width < 2 ^ 8 → radix ^ ((width + 1) / 2) ≤ 2 ^ 64 →
    ∃ (k : Nat) (t : State), RunsTo k s t ∧ RunEnded t ∧ t.cfgValid = true ∧ t.err = 0 ∧ t.lastop = 1 ∧
      t.activeKey = key ∧ t.aKeylen.toNat = key.length ∧ (∀ k : Fin 32, key.length ≤ k.val → t.aKey[k] = 0) ∧
      t.aRounds.toNat = rounds ∧ t.aRadix.toNat = radix ∧ t.aWidth.toNat = width ∧
      t.pw0.toNat = (width + 1) / 2 ∧ t.pw1.toNat = width / 2 ∧
      t.mod0.toNat = radix ^ ((width + 1) / 2) ∧ t.mod1.toNat = radix ^ (width / 2) ∧
      t.blksz.toNat = radix ^ width ∧ t.path = pathOf (radix ^ width) ∧ t.dout = s.dout ∧ t.requests = s.requests

/-- R136: the round trip at the host port. From every idle state of the invariant with an engine, and every `m < BLKSZ`,
the script `ENCRYPT m` ends with `ERR = 0` and `LASTOP = 2`; the script `DECRYPT` of the `DOUT` it left then ends with
`ERR = 0`, `LASTOP = 3` and `DOUT = m`; as functions, `Decrypt(cfg, Encrypt(cfg, m)) = m`. -/
def Obligations.RoundTripAtThePort : Prop :=
  ∀ (s : State) (m : Nat), Inv s → s.phase = .idle → s.cfgValid = true → m < s.blksz.toNat →
    s.host = Script.events (Script.encrypt m) →
    ∃ (k : Nat) (t : State), RunsTo k s t ∧ RunEnded t ∧ t.err = 0 ∧ t.lastop = 2 ∧
      t.dout.toNat = encrypt Config.blockEncrypt s.cfg m ∧
      ∃ (k' : Nat) (u : State),
        RunsTo k' { t with host := Script.events (Script.decrypt t.dout.toNat) } u ∧ RunEnded u ∧
        u.err = 0 ∧ u.lastop = 3 ∧ u.dout.toNat = m ∧
        decrypt Config.blockEncrypt s.cfg (encrypt Config.blockEncrypt s.cfg m) = m
end

