-- ==== Sys2Proof/Laws/Bits.lean ====
section
/-! SUPPORT. What the byte and word operations of Machine/Bits.lean compute, as arithmetic. -/

namespace Sys2Proof.Machine

/-! ## Bytes and little-endian sequences (R13) -/

theorem byteOf_toNat (v i : Nat) : (byteOf v i).toNat = v / 2 ^ (8 * i) % 256 := by
  simp [byteOf]

@[simp] theorem byteOf_zero (i : Nat) : byteOf 0 i = 0 := by
  simp [byteOf]

theorem byteOf_succ (v i : Nat) : byteOf v (i + 1) = byteOf (v / 256) i := by
  have h : 2 ^ (8 * (i + 1)) = 256 * 2 ^ (8 * i) := by rw [Nat.mul_add, Nat.pow_add, Nat.mul_comm]
  rw [byteOf, byteOf, h, Nat.div_div_eq_div_mul]

@[simp] theorem getElem_leBytes (n v : Nat) (i : Nat) (h : i < n) : (leBytes n v)[i] = byteOf v i := by
  simp [leBytes]

theorem toList_leBytes (n v : Nat) : (leBytes n v).toList = (List.range n).map (byteOf v) := by
  apply List.ext_getElem <;> simp

theorem toList_leBytes_succ (n v : Nat) : (leBytes (n + 1) v).toList = byteOf v 0 :: (leBytes n (v / 256)).toList := by
  simp [toList_leBytes, List.range_succ_eq_map, byteOf_succ]

@[simp] theorem fromLE_nil : fromLE [] = 0 := rfl

@[simp] theorem fromLE_cons (b : Byte) (bs : List Byte) : fromLE (b :: bs) = b.toNat + 256 * fromLE bs := rfl

theorem fromLE_append (a b : List Byte) : fromLE (a ++ b) = fromLE a + 256 ^ a.length * fromLE b := by
  induction a with
  | nil => simp
  | cons x xs ih => simp [ih, Nat.pow_succ]; ring

theorem fromLE_lt (b : List Byte) : fromLE b < 256 ^ b.length := by
  induction b with
  | nil => simp
  | cons x xs ih =>
    have hx := x.isLt
    rw [fromLE_cons, List.length_cons, Nat.pow_succ]
    omega

/-- `FromLE(LE_n(v)) = v mod 2^(8n)`; R13 states it for `v < 2^(8n)`. -/
theorem fromLE_leBytes (n v : Nat) : fromLE (leBytes n v).toList = v % 256 ^ n := by
  induction n generalizing v with
  | zero => simp [toList_leBytes, Nat.mod_one]
  | succ n ih =>
    rw [toList_leBytes_succ, fromLE_cons, ih, byteOf_toNat, Nat.pow_succ, Nat.mul_comm (256 ^ n), Nat.mod_mul]
    simp

/-! ## Words of registers (R53, R54) -/

/-- Fields side by side: the left one counts from the right one's width upwards. -/
theorem append_toNat {m n : Nat} (x : BitVec m) (y : BitVec n) : (x ++ y).toNat = 2 ^ n * x.toNat + y.toNat := by
  rw [BitVec.toNat_append, ← Nat.shiftLeft_add_eq_or_of_lt y.isLt, Nat.shiftLeft_eq, Nat.mul_comm]

theorem wordOf_toNat {n : Nat} (v : BitVec n) (j : Nat) : (wordOf v j).toNat = v.toNat / 2 ^ (32 * j) % 2 ^ 32 := by
  simp [wordOf, Config.busW, BitVec.extractLsb'_toNat, Nat.shiftRight_eq_div_pow]

theorem wordOf_getLsbD {n : Nat} (v : BitVec n) (j i : Nat) :
    (wordOf v j).getLsbD i = (decide (i < 32) && v.getLsbD (32 * j + i)) := by
  simp [wordOf, Config.busW]

theorem putWord_getLsbD {n : Nat} (v : BitVec n) (j : Nat) (d : BusWord) (i : Nat) :
    (putWord v j d).getLsbD i =
      (decide (i < n) && if 32 * j ≤ i ∧ i < 32 * j + 32 then d.getLsbD (i - 32 * j) else v.getLsbD i) := by
  have hb : ∀ k, 32 ≤ k → BitVec.getLsbD d k = false := fun k hk => BitVec.getLsbD_of_ge d k hk
  by_cases hn : i < n <;> by_cases hlo : 32 * j ≤ i <;> by_cases hhi : i < 32 * j + 32 <;>
    simp [putWord, Config.busW, -BitVec.reduceAllOnes, hn, hlo, hhi] <;> grind

/-- A word written whole inside the register reads back. -/
theorem wordOf_putWord_same {n : Nat} (v : BitVec n) (j : Nat) (d : BusWord) (h : 32 * j + 32 ≤ n) :
    wordOf (putWord v j d) j = d := by
  apply BitVec.eq_of_getLsbD_eq
  intro i hi
  have hi : i < 32 := hi
  rw [wordOf_getLsbD, putWord_getLsbD]
  simp [hi, show 32 * j + i < n by omega]

/-- Writing one word leaves the other words of the register alone. -/
theorem wordOf_putWord_other {n : Nat} (v : BitVec n) (j k : Nat) (d : BusWord) (h : k ≠ j) :
    wordOf (putWord v j d) k = wordOf v k := by
  apply BitVec.eq_of_getLsbD_eq
  intro i hi
  have hi : i < 32 := hi
  have hout : ¬(32 * j ≤ 32 * k + i ∧ 32 * k + i < 32 * j + 32) := by omega
  have hge : n ≤ 32 * k + i → v.getLsbD (32 * k + i) = false := fun hk => BitVec.getLsbD_of_ge v _ hk
  rw [wordOf_getLsbD, wordOf_getLsbD, putWord_getLsbD, if_neg hout]
  by_cases hn : 32 * k + i < n <;> simp_all

/-- A register narrower than a word keeps the low bits of what is written (R53). -/
theorem putWord_zero_narrow {n : Nat} (v : BitVec n) (d : BusWord) (h : n ≤ 32) : putWord v 0 d = d.setWidth n := by
  apply BitVec.eq_of_getLsbD_eq
  intro i hi
  rw [putWord_getLsbD]
  simp [hi, show i < 32 by omega]

/-- Key byte `k` after a write to key word `j` (R55). -/
theorem getElem_putKeyWord (k : Bytes Config.keyMax) (j : Nat) (d : BusWord) (i : Nat) (h : i < Config.keyMax) :
    (putKeyWord k j d)[i] = if i / 4 = j then byteOf d.toNat (i % 4) else k[i] := by
  simp [putKeyWord]

end Sys2Proof.Machine
end

