-- ==== Sys2Proof/Laws/State.lean ====
section
/-! SUPPORT. One lemma per field for every named update of the state, so that no proof unfolds a record update. -/

namespace Sys2Proof.Machine

/-! ## `WORK[i] <- v` -/

@[simp] theorem setWork_radix (s : State) (i : Half) (v : BitVec Config.workW) : (s.setWork i v).radix = s.radix := by
  cases i <;> rfl
@[simp] theorem setWork_width (s : State) (i : Half) (v : BitVec Config.workW) : (s.setWork i v).width = s.width := by
  cases i <;> rfl
@[simp] theorem setWork_rounds (s : State) (i : Half) (v : BitVec Config.workW) : (s.setWork i v).rounds = s.rounds := by
  cases i <;> rfl
@[simp] theorem setWork_keylen (s : State) (i : Half) (v : BitVec Config.workW) : (s.setWork i v).keylen = s.keylen := by
  cases i <;> rfl
@[simp] theorem setWork_key (s : State) (i : Half) (v : BitVec Config.workW) : (s.setWork i v).key = s.key := by
  cases i <;> rfl
@[simp] theorem setWork_din (s : State) (i : Half) (v : BitVec Config.workW) : (s.setWork i v).din = s.din := by
  cases i <;> rfl
@[simp] theorem setWork_cfgValid (s : State) (i : Half) (v : BitVec Config.workW) : (s.setWork i v).cfgValid = s.cfgValid := by
  cases i <;> rfl
@[simp] theorem setWork_aKey (s : State) (i : Half) (v : BitVec Config.workW) : (s.setWork i v).aKey = s.aKey := by
  cases i <;> rfl
@[simp] theorem setWork_aKeylen (s : State) (i : Half) (v : BitVec Config.workW) : (s.setWork i v).aKeylen = s.aKeylen := by
  cases i <;> rfl
@[simp] theorem setWork_aRadix (s : State) (i : Half) (v : BitVec Config.workW) : (s.setWork i v).aRadix = s.aRadix := by
  cases i <;> rfl
@[simp] theorem setWork_aWidth (s : State) (i : Half) (v : BitVec Config.workW) : (s.setWork i v).aWidth = s.aWidth := by
  cases i <;> rfl
@[simp] theorem setWork_aRounds (s : State) (i : Half) (v : BitVec Config.workW) : (s.setWork i v).aRounds = s.aRounds := by
  cases i <;> rfl
@[simp] theorem setWork_pw0 (s : State) (i : Half) (v : BitVec Config.workW) : (s.setWork i v).pw0 = s.pw0 := by
  cases i <;> rfl
@[simp] theorem setWork_pw1 (s : State) (i : Half) (v : BitVec Config.workW) : (s.setWork i v).pw1 = s.pw1 := by
  cases i <;> rfl
@[simp] theorem setWork_mod0 (s : State) (i : Half) (v : BitVec Config.workW) : (s.setWork i v).mod0 = s.mod0 := by
  cases i <;> rfl
@[simp] theorem setWork_mod1 (s : State) (i : Half) (v : BitVec Config.workW) : (s.setWork i v).mod1 = s.mod1 := by
  cases i <;> rfl
@[simp] theorem setWork_blksz (s : State) (i : Half) (v : BitVec Config.workW) : (s.setWork i v).blksz = s.blksz := by
  cases i <;> rfl
@[simp] theorem setWork_path (s : State) (i : Half) (v : BitVec Config.workW) : (s.setWork i v).path = s.path := by
  cases i <;> rfl
@[simp] theorem setWork_dout (s : State) (i : Half) (v : BitVec Config.workW) : (s.setWork i v).dout = s.dout := by
  cases i <;> rfl
@[simp] theorem setWork_err (s : State) (i : Half) (v : BitVec Config.workW) : (s.setWork i v).err = s.err := by
  cases i <;> rfl
@[simp] theorem setWork_lastop (s : State) (i : Half) (v : BitVec Config.workW) : (s.setWork i v).lastop = s.lastop := by
  cases i <;> rfl
@[simp] theorem setWork_phase (s : State) (i : Half) (v : BitVec Config.workW) : (s.setWork i v).phase = s.phase := by
  cases i <;> rfl
@[simp] theorem setWork_dir (s : State) (i : Half) (v : BitVec Config.workW) : (s.setWork i v).dir = s.dir := by
  cases i <;> rfl
@[simp] theorem setWork_rnd (s : State) (i : Half) (v : BitVec Config.workW) : (s.setWork i v).rnd = s.rnd := by
  cases i <;> rfl
@[simp] theorem setWork_fromIdx (s : State) (i : Half) (v : BitVec Config.workW) : (s.setWork i v).fromIdx = s.fromIdx := by
  cases i <;> rfl
@[simp] theorem setWork_toIdx (s : State) (i : Half) (v : BitVec Config.workW) : (s.setWork i v).toIdx = s.toIdx := by
  cases i <;> rfl
@[simp] theorem setWork_ptbuf (s : State) (i : Half) (v : BitVec Config.workW) : (s.setWork i v).ptbuf = s.ptbuf := by
  cases i <;> rfl
@[simp] theorem setWork_ctbuf (s : State) (i : Half) (v : BitVec Config.workW) : (s.setWork i v).ctbuf = s.ctbuf := by
  cases i <;> rfl
@[simp] theorem setWork_raw (s : State) (i : Half) (v : BitVec Config.workW) : (s.setWork i v).raw = s.raw := by
  cases i <;> rfl
@[simp] theorem setWork_delta (s : State) (i : Half) (v : BitVec Config.workW) : (s.setWork i v).delta = s.delta := by
  cases i <;> rfl
@[simp] theorem setWork_acc (s : State) (i : Half) (v : BitVec Config.workW) : (s.setWork i v).acc = s.acc := by
  cases i <;> rfl
@[simp] theorem setWork_cnt (s : State) (i : Half) (v : BitVec Config.workW) : (s.setWork i v).cnt = s.cnt := by
  cases i <;> rfl
@[simp] theorem setWork_tPw0 (s : State) (i : Half) (v : BitVec Config.workW) : (s.setWork i v).tPw0 = s.tPw0 := by
  cases i <;> rfl
@[simp] theorem setWork_tPw1 (s : State) (i : Half) (v : BitVec Config.workW) : (s.setWork i v).tPw1 = s.tPw1 := by
  cases i <;> rfl
@[simp] theorem setWork_tMod0 (s : State) (i : Half) (v : BitVec Config.workW) : (s.setWork i v).tMod0 = s.tMod0 := by
  cases i <;> rfl
@[simp] theorem setWork_tMod1 (s : State) (i : Half) (v : BitVec Config.workW) : (s.setWork i v).tMod1 = s.tMod1 := by
  cases i <;> rfl
@[simp] theorem setWork_tBlk (s : State) (i : Half) (v : BitVec Config.workW) : (s.setWork i v).tBlk = s.tBlk := by
  cases i <;> rfl
@[simp] theorem setWork_tPath (s : State) (i : Half) (v : BitVec Config.workW) : (s.setWork i v).tPath = s.tPath := by
  cases i <;> rfl
@[simp] theorem setWork_host (s : State) (i : Half) (v : BitVec Config.workW) : (s.setWork i v).host = s.host := by
  cases i <;> rfl
@[simp] theorem setWork_reads (s : State) (i : Half) (v : BitVec Config.workW) : (s.setWork i v).reads = s.reads := by
  cases i <;> rfl
@[simp] theorem setWork_requests (s : State) (i : Half) (v : BitVec Config.workW) : (s.setWork i v).requests = s.requests := by
  cases i <;> rfl
@[simp] theorem setWork_lo_work0 (s : State) (v : BitVec Config.workW) : (s.setWork .lo v).work0 = v := rfl
@[simp] theorem setWork_lo_work1 (s : State) (v : BitVec Config.workW) : (s.setWork .lo v).work1 = s.work1 := rfl
@[simp] theorem setWork_hi_work0 (s : State) (v : BitVec Config.workW) : (s.setWork .hi v).work0 = s.work0 := rfl
@[simp] theorem setWork_hi_work1 (s : State) (v : BitVec Config.workW) : (s.setWork .hi v).work1 = v := rfl

@[simp] theorem work_setWork_same (s : State) (i : Half) (v : BitVec Config.workW) : (s.setWork i v).work i = v := by
  cases i <;> rfl

@[simp] theorem work_setWork_other (s : State) (i : Half) (v : BitVec Config.workW) :
    (s.setWork i v).work i.other = s.work i.other := by
  cases i <;> rfl

@[simp] theorem modulus_setWork (s : State) (i k : Half) (v : BitVec Config.workW) :
    (s.setWork i v).modulus k = s.modulus k := by
  cases i <;> cases k <;> rfl

/-! ## `finish(e)` -/

@[simp] theorem finish_radix (e : ErrCode) (s : State) : (finish e s).radix = s.radix := rfl
@[simp] theorem finish_width (e : ErrCode) (s : State) : (finish e s).width = s.width := rfl
@[simp] theorem finish_rounds (e : ErrCode) (s : State) : (finish e s).rounds = s.rounds := rfl
@[simp] theorem finish_keylen (e : ErrCode) (s : State) : (finish e s).keylen = s.keylen := rfl
@[simp] theorem finish_key (e : ErrCode) (s : State) : (finish e s).key = s.key := rfl
@[simp] theorem finish_din (e : ErrCode) (s : State) : (finish e s).din = s.din := rfl
@[simp] theorem finish_cfgValid (e : ErrCode) (s : State) : (finish e s).cfgValid = if s.runningOp = 1 ∧ e ≠ .ok then false else s.cfgValid := rfl
@[simp] theorem finish_aKey (e : ErrCode) (s : State) : (finish e s).aKey = s.aKey := rfl
@[simp] theorem finish_aKeylen (e : ErrCode) (s : State) : (finish e s).aKeylen = s.aKeylen := rfl
@[simp] theorem finish_aRadix (e : ErrCode) (s : State) : (finish e s).aRadix = s.aRadix := rfl
@[simp] theorem finish_aWidth (e : ErrCode) (s : State) : (finish e s).aWidth = s.aWidth := rfl
@[simp] theorem finish_aRounds (e : ErrCode) (s : State) : (finish e s).aRounds = s.aRounds := rfl
@[simp] theorem finish_pw0 (e : ErrCode) (s : State) : (finish e s).pw0 = s.pw0 := rfl
@[simp] theorem finish_pw1 (e : ErrCode) (s : State) : (finish e s).pw1 = s.pw1 := rfl
@[simp] theorem finish_mod0 (e : ErrCode) (s : State) : (finish e s).mod0 = s.mod0 := rfl
@[simp] theorem finish_mod1 (e : ErrCode) (s : State) : (finish e s).mod1 = s.mod1 := rfl
@[simp] theorem finish_blksz (e : ErrCode) (s : State) : (finish e s).blksz = s.blksz := rfl
@[simp] theorem finish_path (e : ErrCode) (s : State) : (finish e s).path = s.path := rfl
@[simp] theorem finish_dout (e : ErrCode) (s : State) : (finish e s).dout = s.dout := rfl
@[simp] theorem finish_err (e : ErrCode) (s : State) : (finish e s).err = e.code := rfl
@[simp] theorem finish_lastop (e : ErrCode) (s : State) : (finish e s).lastop = s.runningOp := rfl
@[simp] theorem finish_phase (e : ErrCode) (s : State) : (finish e s).phase = .idle := rfl
@[simp] theorem finish_dir (e : ErrCode) (s : State) : (finish e s).dir = s.dir := rfl
@[simp] theorem finish_rnd (e : ErrCode) (s : State) : (finish e s).rnd = s.rnd := rfl
@[simp] theorem finish_fromIdx (e : ErrCode) (s : State) : (finish e s).fromIdx = s.fromIdx := rfl
@[simp] theorem finish_toIdx (e : ErrCode) (s : State) : (finish e s).toIdx = s.toIdx := rfl
@[simp] theorem finish_work0 (e : ErrCode) (s : State) : (finish e s).work0 = s.work0 := rfl
@[simp] theorem finish_work1 (e : ErrCode) (s : State) : (finish e s).work1 = s.work1 := rfl
@[simp] theorem finish_ptbuf (e : ErrCode) (s : State) : (finish e s).ptbuf = s.ptbuf := rfl
@[simp] theorem finish_ctbuf (e : ErrCode) (s : State) : (finish e s).ctbuf = s.ctbuf := rfl
@[simp] theorem finish_raw (e : ErrCode) (s : State) : (finish e s).raw = s.raw := rfl
@[simp] theorem finish_delta (e : ErrCode) (s : State) : (finish e s).delta = s.delta := rfl
@[simp] theorem finish_acc (e : ErrCode) (s : State) : (finish e s).acc = s.acc := rfl
@[simp] theorem finish_cnt (e : ErrCode) (s : State) : (finish e s).cnt = s.cnt := rfl
@[simp] theorem finish_tPw0 (e : ErrCode) (s : State) : (finish e s).tPw0 = s.tPw0 := rfl
@[simp] theorem finish_tPw1 (e : ErrCode) (s : State) : (finish e s).tPw1 = s.tPw1 := rfl
@[simp] theorem finish_tMod0 (e : ErrCode) (s : State) : (finish e s).tMod0 = s.tMod0 := rfl
@[simp] theorem finish_tMod1 (e : ErrCode) (s : State) : (finish e s).tMod1 = s.tMod1 := rfl
@[simp] theorem finish_tBlk (e : ErrCode) (s : State) : (finish e s).tBlk = s.tBlk := rfl
@[simp] theorem finish_tPath (e : ErrCode) (s : State) : (finish e s).tPath = s.tPath := rfl
@[simp] theorem finish_host (e : ErrCode) (s : State) : (finish e s).host = s.host := rfl
@[simp] theorem finish_reads (e : ErrCode) (s : State) : (finish e s).reads = s.reads := rfl
@[simp] theorem finish_requests (e : ErrCode) (s : State) : (finish e s).requests = s.requests := rfl

/-! ## The cipher request -/

@[simp] theorem cipherRequest_radix (s : State) : (cipherRequest s).radix = s.radix := rfl
@[simp] theorem cipherRequest_width (s : State) : (cipherRequest s).width = s.width := rfl
@[simp] theorem cipherRequest_rounds (s : State) : (cipherRequest s).rounds = s.rounds := rfl
@[simp] theorem cipherRequest_keylen (s : State) : (cipherRequest s).keylen = s.keylen := rfl
@[simp] theorem cipherRequest_key (s : State) : (cipherRequest s).key = s.key := rfl
@[simp] theorem cipherRequest_din (s : State) : (cipherRequest s).din = s.din := rfl
@[simp] theorem cipherRequest_cfgValid (s : State) : (cipherRequest s).cfgValid = s.cfgValid := rfl
@[simp] theorem cipherRequest_aKey (s : State) : (cipherRequest s).aKey = s.aKey := rfl
@[simp] theorem cipherRequest_aKeylen (s : State) : (cipherRequest s).aKeylen = s.aKeylen := rfl
@[simp] theorem cipherRequest_aRadix (s : State) : (cipherRequest s).aRadix = s.aRadix := rfl
@[simp] theorem cipherRequest_aWidth (s : State) : (cipherRequest s).aWidth = s.aWidth := rfl
@[simp] theorem cipherRequest_aRounds (s : State) : (cipherRequest s).aRounds = s.aRounds := rfl
@[simp] theorem cipherRequest_pw0 (s : State) : (cipherRequest s).pw0 = s.pw0 := rfl
@[simp] theorem cipherRequest_pw1 (s : State) : (cipherRequest s).pw1 = s.pw1 := rfl
@[simp] theorem cipherRequest_mod0 (s : State) : (cipherRequest s).mod0 = s.mod0 := rfl
@[simp] theorem cipherRequest_mod1 (s : State) : (cipherRequest s).mod1 = s.mod1 := rfl
@[simp] theorem cipherRequest_blksz (s : State) : (cipherRequest s).blksz = s.blksz := rfl
@[simp] theorem cipherRequest_path (s : State) : (cipherRequest s).path = s.path := rfl
@[simp] theorem cipherRequest_dout (s : State) : (cipherRequest s).dout = s.dout := rfl
@[simp] theorem cipherRequest_err (s : State) : (cipherRequest s).err = s.err := rfl
@[simp] theorem cipherRequest_lastop (s : State) : (cipherRequest s).lastop = s.lastop := rfl
@[simp] theorem cipherRequest_phase (s : State) : (cipherRequest s).phase = s.phase := rfl
@[simp] theorem cipherRequest_dir (s : State) : (cipherRequest s).dir = s.dir := rfl
@[simp] theorem cipherRequest_rnd (s : State) : (cipherRequest s).rnd = s.rnd := rfl
@[simp] theorem cipherRequest_fromIdx (s : State) : (cipherRequest s).fromIdx = s.fromIdx := rfl
@[simp] theorem cipherRequest_toIdx (s : State) : (cipherRequest s).toIdx = s.toIdx := rfl
@[simp] theorem cipherRequest_work0 (s : State) : (cipherRequest s).work0 = s.work0 := rfl
@[simp] theorem cipherRequest_work1 (s : State) : (cipherRequest s).work1 = s.work1 := rfl
@[simp] theorem cipherRequest_ptbuf (s : State) : (cipherRequest s).ptbuf = s.ptbuf := rfl
@[simp] theorem cipherRequest_ctbuf (s : State) : (cipherRequest s).ctbuf = Config.blockEncrypt s.activeKey s.ptbuf := rfl
@[simp] theorem cipherRequest_raw (s : State) : (cipherRequest s).raw = s.raw := rfl
@[simp] theorem cipherRequest_delta (s : State) : (cipherRequest s).delta = s.delta := rfl
@[simp] theorem cipherRequest_acc (s : State) : (cipherRequest s).acc = s.acc := rfl
@[simp] theorem cipherRequest_cnt (s : State) : (cipherRequest s).cnt = s.cnt := rfl
@[simp] theorem cipherRequest_tPw0 (s : State) : (cipherRequest s).tPw0 = s.tPw0 := rfl
@[simp] theorem cipherRequest_tPw1 (s : State) : (cipherRequest s).tPw1 = s.tPw1 := rfl
@[simp] theorem cipherRequest_tMod0 (s : State) : (cipherRequest s).tMod0 = s.tMod0 := rfl
@[simp] theorem cipherRequest_tMod1 (s : State) : (cipherRequest s).tMod1 = s.tMod1 := rfl
@[simp] theorem cipherRequest_tBlk (s : State) : (cipherRequest s).tBlk = s.tBlk := rfl
@[simp] theorem cipherRequest_tPath (s : State) : (cipherRequest s).tPath = s.tPath := rfl
@[simp] theorem cipherRequest_host (s : State) : (cipherRequest s).host = s.host := rfl
@[simp] theorem cipherRequest_reads (s : State) : (cipherRequest s).reads = s.reads := rfl
@[simp] theorem cipherRequest_requests (s : State) : (cipherRequest s).requests = s.requests ++ [{ key := s.activeKey, pt := s.ptbuf }] := rfl

/-! ## A recorded read -/

@[simp] theorem recordRead_radix (wa : WordIndex) (s : State) : (recordRead wa s).radix = s.radix := rfl
@[simp] theorem recordRead_width (wa : WordIndex) (s : State) : (recordRead wa s).width = s.width := rfl
@[simp] theorem recordRead_rounds (wa : WordIndex) (s : State) : (recordRead wa s).rounds = s.rounds := rfl
@[simp] theorem recordRead_keylen (wa : WordIndex) (s : State) : (recordRead wa s).keylen = s.keylen := rfl
@[simp] theorem recordRead_key (wa : WordIndex) (s : State) : (recordRead wa s).key = s.key := rfl
@[simp] theorem recordRead_din (wa : WordIndex) (s : State) : (recordRead wa s).din = s.din := rfl
@[simp] theorem recordRead_cfgValid (wa : WordIndex) (s : State) : (recordRead wa s).cfgValid = s.cfgValid := rfl
@[simp] theorem recordRead_aKey (wa : WordIndex) (s : State) : (recordRead wa s).aKey = s.aKey := rfl
@[simp] theorem recordRead_aKeylen (wa : WordIndex) (s : State) : (recordRead wa s).aKeylen = s.aKeylen := rfl
@[simp] theorem recordRead_aRadix (wa : WordIndex) (s : State) : (recordRead wa s).aRadix = s.aRadix := rfl
@[simp] theorem recordRead_aWidth (wa : WordIndex) (s : State) : (recordRead wa s).aWidth = s.aWidth := rfl
@[simp] theorem recordRead_aRounds (wa : WordIndex) (s : State) : (recordRead wa s).aRounds = s.aRounds := rfl
@[simp] theorem recordRead_pw0 (wa : WordIndex) (s : State) : (recordRead wa s).pw0 = s.pw0 := rfl
@[simp] theorem recordRead_pw1 (wa : WordIndex) (s : State) : (recordRead wa s).pw1 = s.pw1 := rfl
@[simp] theorem recordRead_mod0 (wa : WordIndex) (s : State) : (recordRead wa s).mod0 = s.mod0 := rfl
@[simp] theorem recordRead_mod1 (wa : WordIndex) (s : State) : (recordRead wa s).mod1 = s.mod1 := rfl
@[simp] theorem recordRead_blksz (wa : WordIndex) (s : State) : (recordRead wa s).blksz = s.blksz := rfl
@[simp] theorem recordRead_path (wa : WordIndex) (s : State) : (recordRead wa s).path = s.path := rfl
@[simp] theorem recordRead_dout (wa : WordIndex) (s : State) : (recordRead wa s).dout = s.dout := rfl
@[simp] theorem recordRead_err (wa : WordIndex) (s : State) : (recordRead wa s).err = s.err := rfl
@[simp] theorem recordRead_lastop (wa : WordIndex) (s : State) : (recordRead wa s).lastop = s.lastop := rfl
@[simp] theorem recordRead_phase (wa : WordIndex) (s : State) : (recordRead wa s).phase = s.phase := rfl
@[simp] theorem recordRead_dir (wa : WordIndex) (s : State) : (recordRead wa s).dir = s.dir := rfl
@[simp] theorem recordRead_rnd (wa : WordIndex) (s : State) : (recordRead wa s).rnd = s.rnd := rfl
@[simp] theorem recordRead_fromIdx (wa : WordIndex) (s : State) : (recordRead wa s).fromIdx = s.fromIdx := rfl
@[simp] theorem recordRead_toIdx (wa : WordIndex) (s : State) : (recordRead wa s).toIdx = s.toIdx := rfl
@[simp] theorem recordRead_work0 (wa : WordIndex) (s : State) : (recordRead wa s).work0 = s.work0 := rfl
@[simp] theorem recordRead_work1 (wa : WordIndex) (s : State) : (recordRead wa s).work1 = s.work1 := rfl
@[simp] theorem recordRead_ptbuf (wa : WordIndex) (s : State) : (recordRead wa s).ptbuf = s.ptbuf := rfl
@[simp] theorem recordRead_ctbuf (wa : WordIndex) (s : State) : (recordRead wa s).ctbuf = s.ctbuf := rfl
@[simp] theorem recordRead_raw (wa : WordIndex) (s : State) : (recordRead wa s).raw = s.raw := rfl
@[simp] theorem recordRead_delta (wa : WordIndex) (s : State) : (recordRead wa s).delta = s.delta := rfl
@[simp] theorem recordRead_acc (wa : WordIndex) (s : State) : (recordRead wa s).acc = s.acc := rfl
@[simp] theorem recordRead_cnt (wa : WordIndex) (s : State) : (recordRead wa s).cnt = s.cnt := rfl
@[simp] theorem recordRead_tPw0 (wa : WordIndex) (s : State) : (recordRead wa s).tPw0 = s.tPw0 := rfl
@[simp] theorem recordRead_tPw1 (wa : WordIndex) (s : State) : (recordRead wa s).tPw1 = s.tPw1 := rfl
@[simp] theorem recordRead_tMod0 (wa : WordIndex) (s : State) : (recordRead wa s).tMod0 = s.tMod0 := rfl
@[simp] theorem recordRead_tMod1 (wa : WordIndex) (s : State) : (recordRead wa s).tMod1 = s.tMod1 := rfl
@[simp] theorem recordRead_tBlk (wa : WordIndex) (s : State) : (recordRead wa s).tBlk = s.tBlk := rfl
@[simp] theorem recordRead_tPath (wa : WordIndex) (s : State) : (recordRead wa s).tPath = s.tPath := rfl
@[simp] theorem recordRead_host (wa : WordIndex) (s : State) : (recordRead wa s).host = s.host := rfl
@[simp] theorem recordRead_reads (wa : WordIndex) (s : State) : (recordRead wa s).reads = s.reads ++ [(wa, busRead s wa)] := rfl
@[simp] theorem recordRead_requests (wa : WordIndex) (s : State) : (recordRead wa s).requests = s.requests := rfl

/-! ## Reset -/

@[simp] theorem resetEngine_radix (s : State) : (resetEngine s).radix = State.reset.radix := rfl
@[simp] theorem resetEngine_width (s : State) : (resetEngine s).width = State.reset.width := rfl
@[simp] theorem resetEngine_rounds (s : State) : (resetEngine s).rounds = State.reset.rounds := rfl
@[simp] theorem resetEngine_keylen (s : State) : (resetEngine s).keylen = State.reset.keylen := rfl
@[simp] theorem resetEngine_key (s : State) : (resetEngine s).key = State.reset.key := rfl
@[simp] theorem resetEngine_din (s : State) : (resetEngine s).din = State.reset.din := rfl
@[simp] theorem resetEngine_cfgValid (s : State) : (resetEngine s).cfgValid = State.reset.cfgValid := rfl
@[simp] theorem resetEngine_aKey (s : State) : (resetEngine s).aKey = State.reset.aKey := rfl
@[simp] theorem resetEngine_aKeylen (s : State) : (resetEngine s).aKeylen = State.reset.aKeylen := rfl
@[simp] theorem resetEngine_aRadix (s : State) : (resetEngine s).aRadix = State.reset.aRadix := rfl
@[simp] theorem resetEngine_aWidth (s : State) : (resetEngine s).aWidth = State.reset.aWidth := rfl
@[simp] theorem resetEngine_aRounds (s : State) : (resetEngine s).aRounds = State.reset.aRounds := rfl
@[simp] theorem resetEngine_pw0 (s : State) : (resetEngine s).pw0 = State.reset.pw0 := rfl
@[simp] theorem resetEngine_pw1 (s : State) : (resetEngine s).pw1 = State.reset.pw1 := rfl
@[simp] theorem resetEngine_mod0 (s : State) : (resetEngine s).mod0 = State.reset.mod0 := rfl
@[simp] theorem resetEngine_mod1 (s : State) : (resetEngine s).mod1 = State.reset.mod1 := rfl
@[simp] theorem resetEngine_blksz (s : State) : (resetEngine s).blksz = State.reset.blksz := rfl
@[simp] theorem resetEngine_path (s : State) : (resetEngine s).path = State.reset.path := rfl
@[simp] theorem resetEngine_dout (s : State) : (resetEngine s).dout = State.reset.dout := rfl
@[simp] theorem resetEngine_err (s : State) : (resetEngine s).err = State.reset.err := rfl
@[simp] theorem resetEngine_lastop (s : State) : (resetEngine s).lastop = State.reset.lastop := rfl
@[simp] theorem resetEngine_phase (s : State) : (resetEngine s).phase = State.reset.phase := rfl
@[simp] theorem resetEngine_dir (s : State) : (resetEngine s).dir = State.reset.dir := rfl
@[simp] theorem resetEngine_rnd (s : State) : (resetEngine s).rnd = State.reset.rnd := rfl
@[simp] theorem resetEngine_fromIdx (s : State) : (resetEngine s).fromIdx = State.reset.fromIdx := rfl
@[simp] theorem resetEngine_toIdx (s : State) : (resetEngine s).toIdx = State.reset.toIdx := rfl
@[simp] theorem resetEngine_work0 (s : State) : (resetEngine s).work0 = State.reset.work0 := rfl
@[simp] theorem resetEngine_work1 (s : State) : (resetEngine s).work1 = State.reset.work1 := rfl
@[simp] theorem resetEngine_ptbuf (s : State) : (resetEngine s).ptbuf = State.reset.ptbuf := rfl
@[simp] theorem resetEngine_ctbuf (s : State) : (resetEngine s).ctbuf = State.reset.ctbuf := rfl
@[simp] theorem resetEngine_raw (s : State) : (resetEngine s).raw = State.reset.raw := rfl
@[simp] theorem resetEngine_delta (s : State) : (resetEngine s).delta = State.reset.delta := rfl
@[simp] theorem resetEngine_acc (s : State) : (resetEngine s).acc = State.reset.acc := rfl
@[simp] theorem resetEngine_cnt (s : State) : (resetEngine s).cnt = State.reset.cnt := rfl
@[simp] theorem resetEngine_tPw0 (s : State) : (resetEngine s).tPw0 = State.reset.tPw0 := rfl
@[simp] theorem resetEngine_tPw1 (s : State) : (resetEngine s).tPw1 = State.reset.tPw1 := rfl
@[simp] theorem resetEngine_tMod0 (s : State) : (resetEngine s).tMod0 = State.reset.tMod0 := rfl
@[simp] theorem resetEngine_tMod1 (s : State) : (resetEngine s).tMod1 = State.reset.tMod1 := rfl
@[simp] theorem resetEngine_tBlk (s : State) : (resetEngine s).tBlk = State.reset.tBlk := rfl
@[simp] theorem resetEngine_tPath (s : State) : (resetEngine s).tPath = State.reset.tPath := rfl
@[simp] theorem resetEngine_host (s : State) : (resetEngine s).host = s.host := rfl
@[simp] theorem resetEngine_reads (s : State) : (resetEngine s).reads = s.reads := rfl
@[simp] theorem resetEngine_requests (s : State) : (resetEngine s).requests = s.requests := rfl

/-! ## Scratch cleared -/

@[simp] theorem clearScratch_radix (s : State) : (s.clearScratch).radix = s.radix := rfl
@[simp] theorem clearScratch_width (s : State) : (s.clearScratch).width = s.width := rfl
@[simp] theorem clearScratch_rounds (s : State) : (s.clearScratch).rounds = s.rounds := rfl
@[simp] theorem clearScratch_keylen (s : State) : (s.clearScratch).keylen = s.keylen := rfl
@[simp] theorem clearScratch_key (s : State) : (s.clearScratch).key = s.key := rfl
@[simp] theorem clearScratch_din (s : State) : (s.clearScratch).din = s.din := rfl
@[simp] theorem clearScratch_cfgValid (s : State) : (s.clearScratch).cfgValid = s.cfgValid := rfl
@[simp] theorem clearScratch_aKey (s : State) : (s.clearScratch).aKey = s.aKey := rfl
@[simp] theorem clearScratch_aKeylen (s : State) : (s.clearScratch).aKeylen = s.aKeylen := rfl
@[simp] theorem clearScratch_aRadix (s : State) : (s.clearScratch).aRadix = s.aRadix := rfl
@[simp] theorem clearScratch_aWidth (s : State) : (s.clearScratch).aWidth = s.aWidth := rfl
@[simp] theorem clearScratch_aRounds (s : State) : (s.clearScratch).aRounds = s.aRounds := rfl
@[simp] theorem clearScratch_pw0 (s : State) : (s.clearScratch).pw0 = s.pw0 := rfl
@[simp] theorem clearScratch_pw1 (s : State) : (s.clearScratch).pw1 = s.pw1 := rfl
@[simp] theorem clearScratch_mod0 (s : State) : (s.clearScratch).mod0 = s.mod0 := rfl
@[simp] theorem clearScratch_mod1 (s : State) : (s.clearScratch).mod1 = s.mod1 := rfl
@[simp] theorem clearScratch_blksz (s : State) : (s.clearScratch).blksz = s.blksz := rfl
@[simp] theorem clearScratch_path (s : State) : (s.clearScratch).path = s.path := rfl
@[simp] theorem clearScratch_dout (s : State) : (s.clearScratch).dout = s.dout := rfl
@[simp] theorem clearScratch_err (s : State) : (s.clearScratch).err = s.err := rfl
@[simp] theorem clearScratch_lastop (s : State) : (s.clearScratch).lastop = s.lastop := rfl
@[simp] theorem clearScratch_phase (s : State) : (s.clearScratch).phase = s.phase := rfl
@[simp] theorem clearScratch_dir (s : State) : (s.clearScratch).dir = State.reset.dir := rfl
@[simp] theorem clearScratch_rnd (s : State) : (s.clearScratch).rnd = State.reset.rnd := rfl
@[simp] theorem clearScratch_fromIdx (s : State) : (s.clearScratch).fromIdx = State.reset.fromIdx := rfl
@[simp] theorem clearScratch_toIdx (s : State) : (s.clearScratch).toIdx = State.reset.toIdx := rfl
@[simp] theorem clearScratch_work0 (s : State) : (s.clearScratch).work0 = State.reset.work0 := rfl
@[simp] theorem clearScratch_work1 (s : State) : (s.clearScratch).work1 = State.reset.work1 := rfl
@[simp] theorem clearScratch_ptbuf (s : State) : (s.clearScratch).ptbuf = State.reset.ptbuf := rfl
@[simp] theorem clearScratch_ctbuf (s : State) : (s.clearScratch).ctbuf = State.reset.ctbuf := rfl
@[simp] theorem clearScratch_raw (s : State) : (s.clearScratch).raw = State.reset.raw := rfl
@[simp] theorem clearScratch_delta (s : State) : (s.clearScratch).delta = State.reset.delta := rfl
@[simp] theorem clearScratch_acc (s : State) : (s.clearScratch).acc = State.reset.acc := rfl
@[simp] theorem clearScratch_cnt (s : State) : (s.clearScratch).cnt = State.reset.cnt := rfl
@[simp] theorem clearScratch_tPw0 (s : State) : (s.clearScratch).tPw0 = State.reset.tPw0 := rfl
@[simp] theorem clearScratch_tPw1 (s : State) : (s.clearScratch).tPw1 = State.reset.tPw1 := rfl
@[simp] theorem clearScratch_tMod0 (s : State) : (s.clearScratch).tMod0 = State.reset.tMod0 := rfl
@[simp] theorem clearScratch_tMod1 (s : State) : (s.clearScratch).tMod1 = State.reset.tMod1 := rfl
@[simp] theorem clearScratch_tBlk (s : State) : (s.clearScratch).tBlk = State.reset.tBlk := rfl
@[simp] theorem clearScratch_tPath (s : State) : (s.clearScratch).tPath = State.reset.tPath := rfl
@[simp] theorem clearScratch_host (s : State) : (s.clearScratch).host = s.host := rfl
@[simp] theorem clearScratch_reads (s : State) : (s.clearScratch).reads = s.reads := rfl
@[simp] theorem clearScratch_requests (s : State) : (s.clearScratch).requests = s.requests := rfl

/-! ## Gaps erased -/

@[simp] theorem eraseGaps_radix (s : State) : (s.eraseGaps).radix = s.radix := rfl
@[simp] theorem eraseGaps_width (s : State) : (s.eraseGaps).width = s.width := rfl
@[simp] theorem eraseGaps_rounds (s : State) : (s.eraseGaps).rounds = s.rounds := rfl
@[simp] theorem eraseGaps_keylen (s : State) : (s.eraseGaps).keylen = s.keylen := rfl
@[simp] theorem eraseGaps_key (s : State) : (s.eraseGaps).key = s.key := rfl
@[simp] theorem eraseGaps_din (s : State) : (s.eraseGaps).din = s.din := rfl
@[simp] theorem eraseGaps_cfgValid (s : State) : (s.eraseGaps).cfgValid = s.cfgValid := rfl
@[simp] theorem eraseGaps_aKey (s : State) : (s.eraseGaps).aKey = s.aKey := rfl
@[simp] theorem eraseGaps_aKeylen (s : State) : (s.eraseGaps).aKeylen = s.aKeylen := rfl
@[simp] theorem eraseGaps_aRadix (s : State) : (s.eraseGaps).aRadix = s.aRadix := rfl
@[simp] theorem eraseGaps_aWidth (s : State) : (s.eraseGaps).aWidth = s.aWidth := rfl
@[simp] theorem eraseGaps_aRounds (s : State) : (s.eraseGaps).aRounds = s.aRounds := rfl
@[simp] theorem eraseGaps_pw0 (s : State) : (s.eraseGaps).pw0 = s.pw0 := rfl
@[simp] theorem eraseGaps_pw1 (s : State) : (s.eraseGaps).pw1 = s.pw1 := rfl
@[simp] theorem eraseGaps_mod0 (s : State) : (s.eraseGaps).mod0 = s.mod0 := rfl
@[simp] theorem eraseGaps_mod1 (s : State) : (s.eraseGaps).mod1 = s.mod1 := rfl
@[simp] theorem eraseGaps_blksz (s : State) : (s.eraseGaps).blksz = s.blksz := rfl
@[simp] theorem eraseGaps_path (s : State) : (s.eraseGaps).path = s.path := rfl
@[simp] theorem eraseGaps_dout (s : State) : (s.eraseGaps).dout = s.dout := rfl
@[simp] theorem eraseGaps_err (s : State) : (s.eraseGaps).err = s.err := rfl
@[simp] theorem eraseGaps_lastop (s : State) : (s.eraseGaps).lastop = s.lastop := rfl
@[simp] theorem eraseGaps_phase (s : State) : (s.eraseGaps).phase = s.phase := rfl
@[simp] theorem eraseGaps_dir (s : State) : (s.eraseGaps).dir = s.dir := rfl
@[simp] theorem eraseGaps_rnd (s : State) : (s.eraseGaps).rnd = s.rnd := rfl
@[simp] theorem eraseGaps_fromIdx (s : State) : (s.eraseGaps).fromIdx = s.fromIdx := rfl
@[simp] theorem eraseGaps_toIdx (s : State) : (s.eraseGaps).toIdx = s.toIdx := rfl
@[simp] theorem eraseGaps_work0 (s : State) : (s.eraseGaps).work0 = s.work0 := rfl
@[simp] theorem eraseGaps_work1 (s : State) : (s.eraseGaps).work1 = s.work1 := rfl
@[simp] theorem eraseGaps_ptbuf (s : State) : (s.eraseGaps).ptbuf = s.ptbuf := rfl
@[simp] theorem eraseGaps_ctbuf (s : State) : (s.eraseGaps).ctbuf = s.ctbuf := rfl
@[simp] theorem eraseGaps_raw (s : State) : (s.eraseGaps).raw = s.raw := rfl
@[simp] theorem eraseGaps_delta (s : State) : (s.eraseGaps).delta = s.delta := rfl
@[simp] theorem eraseGaps_acc (s : State) : (s.eraseGaps).acc = s.acc := rfl
@[simp] theorem eraseGaps_cnt (s : State) : (s.eraseGaps).cnt = s.cnt := rfl
@[simp] theorem eraseGaps_tPw0 (s : State) : (s.eraseGaps).tPw0 = s.tPw0 := rfl
@[simp] theorem eraseGaps_tPw1 (s : State) : (s.eraseGaps).tPw1 = s.tPw1 := rfl
@[simp] theorem eraseGaps_tMod0 (s : State) : (s.eraseGaps).tMod0 = s.tMod0 := rfl
@[simp] theorem eraseGaps_tMod1 (s : State) : (s.eraseGaps).tMod1 = s.tMod1 := rfl
@[simp] theorem eraseGaps_tBlk (s : State) : (s.eraseGaps).tBlk = s.tBlk := rfl
@[simp] theorem eraseGaps_tPath (s : State) : (s.eraseGaps).tPath = s.tPath := rfl
@[simp] theorem eraseGaps_host (s : State) : (s.eraseGaps).host = s.host.map fun e => { e with gap := 0 } := rfl
@[simp] theorem eraseGaps_reads (s : State) : (s.eraseGaps).reads = s.reads := rfl
@[simp] theorem eraseGaps_requests (s : State) : (s.eraseGaps).requests = s.requests := rfl

end Sys2Proof.Machine
end

