-- ==== Sys2Proof/Laws/HostPort.lean ====
section
/-! SUPPORT. What a read returns after one operand register has changed, and what a write can change. -/

namespace Sys2Proof.Machine

/-! ## Reads after a change of one register -/

theorem busRead_radix (s : State) (v : BitVec Config.radixW) (wa : WordIndex) :
    busRead { s with radix := v } wa =
      if wa.toNat = 2 then wordOf v 0 else if wa.toNat = 3 then wordOf v 1 else busRead s wa := by
  unfold busRead
  split <;> simp_all [statusWord, cfginfoWord, State.busy]

theorem busRead_width (s : State) (v : BitVec Config.widthW) (wa : WordIndex) :
    busRead { s with width := v } wa = if wa.toNat = 4 then wordOf v 0 else busRead s wa := by
  unfold busRead
  split <;> simp_all [statusWord, cfginfoWord, State.busy]

theorem busRead_rounds (s : State) (v : BitVec Config.roundsW) (wa : WordIndex) :
    busRead { s with rounds := v } wa = if wa.toNat = 5 then wordOf v 0 else busRead s wa := by
  unfold busRead
  split <;> simp_all [statusWord, cfginfoWord, State.busy]

theorem busRead_keylen (s : State) (v : BitVec Config.keylenW) (wa : WordIndex) :
    busRead { s with keylen := v } wa = if wa.toNat = 6 then wordOf v 0 else busRead s wa := by
  unfold busRead
  split <;> simp_all [statusWord, cfginfoWord, State.busy]

/-- The key is not readable at any word (R22). -/
theorem busRead_key (s : State) (v : Bytes Config.keyMax) (wa : WordIndex) :
    busRead { s with key := v } wa = busRead s wa := rfl

theorem busRead_din (s : State) (v : BitVec Config.msgW) (wa : WordIndex) :
    busRead { s with din := v } wa =
      if 16 ≤ wa.toNat ∧ wa.toNat < 20 then wordOf v (wa.toNat - 16) else busRead s wa := by
  unfold busRead
  split <;> simp_all [statusWord, cfginfoWord, State.busy]
  omega

/-! ## Writes -/

theorem busWrite_busy {s : State} (wa : WordIndex) (d : BusWord) (h : s.phase ≠ .idle) : busWrite wa d s = s := by
  simp [busWrite, State.busy, h]

theorem busWrite_idle {s : State} (wa : WordIndex) (d : BusWord) (h : s.phase = .idle) :
    busWrite wa d s = writeRegister wa d s := by
  simp [busWrite, State.busy, h]

/-- A write changes one operand register or none (R49). -/
theorem writeRegister_cases (wa : WordIndex) (d : BusWord) (s : State) :
    (∃ v, writeRegister wa d s = { s with radix := v }) ∨ (∃ v, writeRegister wa d s = { s with width := v }) ∨
    (∃ v, writeRegister wa d s = { s with rounds := v }) ∨ (∃ v, writeRegister wa d s = { s with keylen := v }) ∨
    (∃ v, writeRegister wa d s = { s with key := v }) ∨ (∃ v, writeRegister wa d s = { s with din := v }) ∨
    writeRegister wa d s = s := by
  unfold writeRegister
  split <;> simp

/-- A write leaves everything alone that is no operand register. -/
theorem writeRegister_frame (wa : WordIndex) (d : BusWord) (s : State) :
    writeRegister wa d s =
      { s with radix := (writeRegister wa d s).radix, width := (writeRegister wa d s).width,
               rounds := (writeRegister wa d s).rounds, keylen := (writeRegister wa d s).keylen,
               key := (writeRegister wa d s).key, din := (writeRegister wa d s).din } := by
  unfold writeRegister
  split <;> rfl

end Sys2Proof.Machine
end

