-- ==== Sys2Proof/Laws/Operands.lean ====
section
/-! SUPPORT. What the operations of Machine/Operands.lean compute where the spec's side conditions hold. -/

namespace Sys2Proof.Machine

/-! ## Arithmetic (R12, R14) -/

/-- A value that fits its register is stored exactly. -/
theorem fit_toNat {w v : Nat} (h : v < 2 ^ w) : (fit w v).toNat = v := by
  simp [fit, h, Nat.mod_eq_of_lt h]

theorem natMod_eq {a m : Nat} (h : 1 ≤ m) : natMod a m = a % m := by
  simp [natMod, Nat.ne_of_gt h]

theorem natMod_lt {a m : Nat} (h : 1 ≤ m) : natMod a m < m := by
  rw [natMod_eq h]
  exact Nat.mod_lt _ h

theorem natDiv_eq {a m : Nat} (h : 1 ≤ m) : natDiv a m = a / m := by
  simp [natDiv, Nat.ne_of_gt h]

theorem exactSub_eq {a b : Nat} (h : b ≤ a) : exactSub a b = a - b := by
  simp [exactSub, h]

theorem modSub_of_le {w d m : Nat} (hw : w < m) (h : d ≤ w) : modSub w d m = w - d := by
  have hm : m ≠ 0 := by omega
  have hz : (((w : Int) - d) % m) = (w : Int) - d := Int.emod_eq_of_lt (by omega) (by omega)
  simp only [modSub, hm, if_false, hz]
  omega

theorem modSub_of_lt {w d m : Nat} (hd : d < m) (h : w < d) : modSub w d m = w + m - d := by
  have hm : m ≠ 0 := by omega
  have hz : (((w : Int) - d) % m) = (w : Int) - d + m := by
    rw [← Int.add_emod_right]
    exact Int.emod_eq_of_lt (by omega) (by omega)
  simp only [modSub, hm, if_false, hz]
  omega

theorem modSub_lt {w d m : Nat} (hw : w < m) (hd : d < m) : modSub w d m < m := by
  rcases Nat.lt_or_ge w d with h | h
  · rw [modSub_of_lt hd h]
    omega
  · rw [modSub_of_le hw h]
    omega

/-- Adding and then taking away the same amount gives the value back: `(x + d - d) mod M = x` (R130). -/
theorem modSub_add {w d m : Nat} (hw : w < m) (hd : d < m) : modSub ((w + d) % m) d m = w := by
  rcases Nat.lt_or_ge (w + d) m with h | h
  · rw [Nat.mod_eq_of_lt h, modSub_of_le h (by omega)]
    omega
  · rw [Nat.mod_eq_sub_mod h, Nat.mod_eq_of_lt (by omega), modSub_of_lt hd (by omega)]
    omega

/-- Taking away and then adding the same amount gives the value back (R130). -/
theorem add_modSub {w d m : Nat} (hw : w < m) (hd : d < m) : (modSub w d m + d) % m = w := by
  rcases Nat.lt_or_ge w d with h | h
  · rw [modSub_of_lt hd h, Nat.sub_add_cancel (by omega), Nat.add_mod_right, Nat.mod_eq_of_lt hw]
  · rw [modSub_of_le hw h, Nat.sub_add_cancel h, Nat.mod_eq_of_lt hw]

theorem halfUp_add_halfDown (w : Nat) : halfUp w + halfDown w = w := by
  simp only [halfUp, halfDown]
  omega

theorem halfDown_le_halfUp (w : Nat) : halfDown w ≤ halfUp w := by
  simp only [halfUp, halfDown]
  omega

theorem halfUp_eq_halfDown_or_succ (w : Nat) : halfUp w = halfDown w ∨ halfUp w = halfDown w + 1 := by
  simp only [halfUp, halfDown]
  omega

theorem dividesTwo128_iff (n : Nat) : dividesTwo128 n = true ↔ 1 ≤ n ∧ n ∣ 2 ^ 128 := by
  rw [dividesTwo128, Bool.and_eq_true, decide_eq_true_iff, decide_eq_true_iff, Nat.dvd_iff_mod_eq_zero]

theorem pathOf_eq_small_iff (b : Nat) :
    pathOf b = .small ↔ b < 2 ^ 32 ∨ (b < 2 ^ 64 ∧ dividesTwo128 b = true) := by
  unfold pathOf
  split <;> simp_all

/-! ## Indices (R39, R134) -/

@[simp] theorem other_other (i : Half) : i.other.other = i := by
  cases i <;> rfl

theorem other_ne (i : Half) : i.other ≠ i := by
  cases i <;> decide

theorem ofParity_succ (n : Nat) : Half.ofParity (n + 1) = (Half.ofParity n).other := by
  rcases Nat.mod_two_eq_zero_or_one n with h | h <;> simp [Half.ofParity, Half.other, h, Nat.add_mod]

theorem ofParity_pred {n : Nat} (h : 1 ≤ n) : Half.ofParity (n - 1) = (Half.ofParity n).other := by
  have hs : n - 1 + 1 = n := by omega
  rw [← hs, ofParity_succ, Nat.add_sub_cancel, other_other]

/-! ## Keys and blocks (R25, R77, R78, R100) -/

theorem getElem_keepKey (k : Bytes Config.keyMax) (n i : Nat) (h : i < Config.keyMax) :
    (keepKey k n)[i] = if i < n then k[i] else 0 := by
  simp [keepKey]

/-- The bytes of the active key: as many as `aKEYLEN` says, but never more than there are. -/
theorem length_activeKey (s : State) : s.activeKey.length = min s.aKeylen.toNat 32 := by
  simp [State.activeKey, Config.keyMax]

theorem toList_packBlock (r w : Nat) : (packBlock r w).toList = (leBytes 8 r).toList ++ (leBytes 8 w).toList := by
  exact Vector.toList_append

/-- The cipher input block as one little-endian integer: `round_num + 2^64 * work_value` (R77). -/
theorem fromLE_packBlock {r w : Nat} (hr : r < 2 ^ 64) (hw : w < 2 ^ 64) :
    fromLE (packBlock r w).toList = r + 2 ^ 64 * w := by
  rw [toList_packBlock, fromLE_append, fromLE_leBytes, fromLE_leBytes, Vector.length_toList]
  norm_num
  omega

theorem take_packBlock (r w : Nat) : (packBlock r w).toList.take 8 = (leBytes 8 r).toList := by
  rw [toList_packBlock]
  exact List.take_left' (by simp)

theorem unpackBlock_lt (p : Path) (ct : Block) : unpackBlock p ct < 2 ^ 128 := by
  cases p with
  | small =>
    have h := fromLE_lt (ct.toList.take 8)
    simp only [List.length_take, Vector.length_toList, Config.cb] at h
    exact Nat.lt_of_lt_of_le h (by norm_num)
  | large =>
    have h := fromLE_lt ct.toList
    simp only [Vector.length_toList, Config.cb] at h
    exact Nat.lt_of_lt_of_le h (by norm_num)

theorem unpackBlock_small_lt (ct : Block) : unpackBlock .small ct < 2 ^ 64 := by
  have h := fromLE_lt (ct.toList.take 8)
  simp only [List.length_take, Vector.length_toList, Config.cb] at h
  exact Nat.lt_of_lt_of_le h (by norm_num)

/-- The large-path raw value is the small-path one plus a multiple of `2^64` (R78, R99). -/
theorem unpackBlock_large (ct : Block) :
    unpackBlock .large ct = unpackBlock .small ct + 2 ^ 64 * fromLE (ct.toList.drop 8) := by
  have h := fromLE_append (ct.toList.take 8) (ct.toList.drop 8)
  rw [List.take_append_drop] at h
  simp only [unpackBlock, h, List.length_take, Vector.length_toList, Config.cb]
  norm_num

end Sys2Proof.Machine
end

