-- ==== Sys2Proof/Laws/Ops.lean ====
section
/-! SUPPORT. For each shared operation, once, everything it can do. -/

namespace Sys2Proof.Machine

/-! ## Flags -/

theorem busy_iff (s : State) : s.busy = true ↔ s.phase ≠ .idle := by
  simp [State.busy]

theorem not_busy_iff (s : State) : s.busy = false ↔ s.phase = .idle := by
  simp [State.busy]

theorem code_eq_zero_iff (e : ErrCode) : e.code = 0 ↔ e = .ok := by
  cases e <;> decide

theorem code_le (e : ErrCode) : e.code.toNat ≤ 6 := by
  cases e <;> decide

theorem runningOp_of_init {s : State} (h : s.phase.ofInit = true) : s.runningOp = 1 := by
  simp [State.runningOp, h]

theorem runningOp_of_pass {s : State} (h : s.phase.ofInit = false) : s.runningOp = s.dir.opcode := by
  simp [State.runningOp, h]

theorem opcode_ne_one (d : Dir) : d.opcode ≠ 1 := by
  cases d <;> decide

theorem opcode_eq (d : Dir) : d.opcode = if d = .forward then 2 else 3 := by
  cases d <;> rfl

/-! ## Acceptance (R50, R83) -/

theorem acceptCommand_idle {s : State} (f : State → State) (h : s.phase = .idle) : acceptCommand f s = .next (f s) := by
  simp [acceptCommand, (not_busy_iff s).mpr h]

theorem acceptCommand_busy {s : State} (f : State → State) (h : s.phase ≠ .idle) : acceptCommand f s = .next s := by
  simp [acceptCommand, (busy_iff s).mpr h]

/-- Whatever the state, a command word is answered by a next state: the command's effect when idle, nothing when busy. -/
theorem acceptCommand_cases (f : State → State) (s : State) :
    (s.phase = .idle ∧ acceptCommand f s = .next (f s)) ∨ (s.phase ≠ .idle ∧ acceptCommand f s = .next s) := by
  by_cases h : s.phase = .idle
  · exact .inl ⟨h, acceptCommand_idle f h⟩
  · exact .inr ⟨h, acceptCommand_busy f h⟩

/-! ## Completion (R89) -/

/-- Completing an `INIT` with an error leaves no engine. -/
theorem finish_init_error {s : State} {e : ErrCode} (h : s.phase.ofInit = true) (he : e ≠ .ok) :
    finish e s = { s with err := e.code, lastop := 1, cfgValid := false, phase := .idle } := by
  simp [finish, runningOp_of_init h, he]

/-- Completing an `INIT` with success. -/
theorem finish_init_ok {s : State} (h : s.phase.ofInit = true) :
    finish .ok s = { s with err := 0, lastop := 1, phase := .idle } := by
  simp [finish, runningOp_of_init h, ErrCode.code]

/-- Completing a pass never touches `CFG_VALID`. -/
theorem finish_pass {s : State} {e : ErrCode} (h : s.phase.ofInit = false) :
    finish e s = { s with err := e.code, lastop := s.dir.opcode, phase := .idle } := by
  simp only [finish, runningOp_of_pass h, opcode_ne_one, false_and, if_false]

/-! ## Scratch (R43) -/

/-- Two states differ in scratch alone exactly when they agree on every other field. -/
theorem sameButScratch_iff (s t : State) : SameButScratch s t ↔
    (s.radix = t.radix ∧ s.width = t.width ∧ s.rounds = t.rounds ∧ s.keylen = t.keylen ∧ s.key = t.key ∧
      s.din = t.din) ∧
    (s.cfgValid = t.cfgValid ∧ s.aKey = t.aKey ∧ s.aKeylen = t.aKeylen ∧ s.aRadix = t.aRadix ∧ s.aWidth = t.aWidth ∧
      s.aRounds = t.aRounds ∧ s.pw0 = t.pw0 ∧ s.pw1 = t.pw1 ∧ s.mod0 = t.mod0 ∧ s.mod1 = t.mod1 ∧
      s.blksz = t.blksz ∧ s.path = t.path) ∧
    (s.dout = t.dout ∧ s.err = t.err ∧ s.lastop = t.lastop ∧ s.phase = t.phase) ∧
    (s.host = t.host ∧ s.reads = t.reads ∧ s.requests = t.requests) := by
  simp only [SameButScratch, State.clearScratch, State.mk.injEq, and_assoc, true_and]

@[refl] theorem SameButScratch.refl (s : State) : SameButScratch s s := rfl

@[symm] theorem SameButScratch.symm {s t : State} (h : SameButScratch s t) : SameButScratch t s := Eq.symm h

@[trans] theorem SameButScratch.trans {s t u : State} (h : SameButScratch s t) (h' : SameButScratch t u) :
    SameButScratch s u := Eq.trans h h'

/-! ## Runs -/

theorem runsTo_zero (s t : State) : RunsTo 0 s t ↔ s = t :=
  ⟨fun h => Host.Outcome.next.inj h, fun h => congrArg _ h⟩

theorem runsTo_succ {k : Nat} {s t u : State} (h : step s = .next t) : RunsTo (k + 1) s u ↔ RunsTo k t u := by
  simp [RunsTo, Host.Core.run, Sys2Proof.core, h]

theorem runsTo_one {s t : State} (h : step s = .next t) : RunsTo 1 s t :=
  (runsTo_succ h).mpr ((runsTo_zero t t).mpr rfl)

/-- A first step of a run that answers. -/
theorem RunsTo.step_first {k : Nat} {s u : State} (h : RunsTo (k + 1) s u) :
    ∃ t, step s = .next t ∧ RunsTo k t u := by
  simp only [RunsTo, Host.Core.run, Sys2Proof.core] at h
  split at h
  · exact ⟨_, by assumption, h⟩
  · cases h
  · cases h

/-- Runs compose. -/
theorem RunsTo.add {j k : Nat} {s t u : State} (h : RunsTo j s t) (h' : RunsTo k t u) : RunsTo (j + k) s u := by
  induction j generalizing s with
  | zero =>
    obtain rfl := (runsTo_zero s t).mp h
    rwa [Nat.zero_add]
  | succ j ih =>
    obtain ⟨r, hr, hrt⟩ := h.step_first
    rw [show j + 1 + k = j + k + 1 by omega, runsTo_succ hr]
    exact ih hrt

/-- A run has one end. -/
theorem RunsTo.unique {k : Nat} {s t u : State} (h : RunsTo k s t) (h' : RunsTo k s u) : t = u :=
  Host.Outcome.next.inj (h.symm.trans h')

end Sys2Proof.Machine
end

