-- ==== Sys2Proof/Laws/PerInstr.lean ====
section
/-! SUPPORT. The family of per-instruction statements: the length of an encoding. -/

namespace Sys2Proof.Laws.EncodedLength

/-- Whether the instruction comes as a command word (R67) rather than as a phase code (R74). -/
def isCommand : Instr → Bool
  | .nop | .init | .enc | .dec | .illegal _ _ => true
  | .iKeychk | .iParchk | .iWidths | .iExp | .iPath | .iCommit | .xCheck | .xSplit | .rPack | .rCiph | .rUnpack
  | .rReduce | .rMix | .xJoin => false

/-- A command word is four bytes, a phase code is one (R67, R74, assumption 9). -/
def Statement (i : Instr) : Prop := (encode i).length = if isCommand i then 4 else 1

theorem nop : Statement .nop := rfl
theorem init : Statement .init := rfl
theorem enc : Statement .enc := rfl
theorem dec : Statement .dec := rfl
theorem illegal (rsv : BitVec 28) (op : BitVec 4) : Statement (.illegal rsv op) := rfl
theorem iKeychk : Statement .iKeychk := rfl
theorem iParchk : Statement .iParchk := rfl
theorem iWidths : Statement .iWidths := rfl
theorem iExp : Statement .iExp := rfl
theorem iPath : Statement .iPath := rfl
theorem iCommit : Statement .iCommit := rfl
theorem xCheck : Statement .xCheck := rfl
theorem xSplit : Statement .xSplit := rfl
theorem rPack : Statement .rPack := rfl
theorem rCiph : Statement .rCiph := rfl
theorem rUnpack : Statement .rUnpack := rfl
theorem rReduce : Statement .rReduce := rfl
theorem rMix : Statement .rMix := rfl
theorem xJoin : Statement .xJoin := rfl

end Sys2Proof.Laws.EncodedLength
end

