-- ==== Sys2Proof/Laws/Reference.lean ====
section
/-! SUPPORT. Small lemmas of the reference functions: the pair of work values, the moduli of a configuration, and what
one round reads and writes. -/

namespace Sys2Proof.Machine

theorem Pair.get_put (p : Pair) (i j : Half) (v : Nat) : (p.put i v).get j = if j = i then v else p.get j := by
  cases i <;> cases j <;> rfl

@[simp] theorem Pair.get_put_same (p : Pair) (i : Half) (v : Nat) : (p.put i v).get i = v := by
  cases i <;> rfl

@[simp] theorem Pair.put_put (p : Pair) (i : Half) (v w : Nat) : (p.put i v).put i w = p.put i w := by
  cases i <;> rfl

@[simp] theorem Pair.put_get (p : Pair) (i : Half) : p.put i (p.get i) = p := by
  cases i <;> rfl

theorem Cfg.modulus_pos {c : Cfg} (h0 : 1 ≤ c.mod0) (h1 : 1 ≤ c.mod1) (i : Half) : 1 ≤ c.modulus i := by
  cases i
  · exact h0
  · exact h1

@[simp] theorem State.cfg_modulus (s : State) (i : Half) : s.cfg.modulus i = (s.modulus i).toNat := by
  cases i <;> rfl

/-- R113: a round output is below its modulus. -/
theorem roundOutput_lt (cipher : Cipher) (key : List Byte) (path : Path) (w r : Nat) {m : Nat} (h : 1 ≤ m) :
    roundOutput cipher key path w r m < m :=
  natMod_lt h

/-- A forward round leaves the half it reads as it is (R130). -/
theorem forwardRound_get_from (cipher : Cipher) (c : Cfg) (r : Nat) (p : Pair) :
    (forwardRound cipher c r p).get (Half.ofParity r) = p.get (Half.ofParity r) := by
  simp [forwardRound, Pair.get_put, (other_ne (Half.ofParity r)).symm]

/-- An inverse round leaves the half it reads as it is (R130). -/
theorem inverseRound_get_from (cipher : Cipher) (c : Cfg) (r : Nat) (p : Pair) :
    (inverseRound cipher c r p).get (Half.ofParity r) = p.get (Half.ofParity r) := by
  simp [inverseRound, Pair.get_put, (other_ne (Half.ofParity r)).symm]

end Sys2Proof.Machine
end

