-- ==== Sys2Proof/Laws/Step.lean ====
section
/-! SUPPORT. What one step can do, said once: the sequencer's micro-operation, one of the host's five transactions, or
nothing. -/

namespace Sys2Proof.Machine

/-! ## The parts of a step -/

theorem microOp_idle : microOp .idle = none := rfl

/-- Every phase but `IDLE` names a micro-operation (R90). -/
theorem microOp_busy {p : Phase} (h : p ≠ .idle) : ∃ i, microOp p = some i := by
  cases p <;> first | exact absurd rfl h | exact ⟨_, rfl⟩

theorem hostTurn_idle {s : State} (e : HostEvent) (h : s.phase = .idle) : hostTurn s e = true := by
  simp [hostTurn, State.busy, h]

theorem hostTurn_busy {s : State} (e : HostEvent) (h : s.phase ≠ .idle) :
    hostTurn s e = true ↔ e.gap = 0 ∧ e.op ≠ .wait := by
  simp [hostTurn, State.busy, h]

/-- The host's list after a step of the sequencer: the first gap counts one down. -/
def countGap : List HostEvent → List HostEvent
  | [] => []
  | e :: rest => { e with gap := e.gap - 1 } :: rest

/-! ## The step -/

/-- The sequencer's turn: it is not the host's. -/
theorem step_sequencer {s : State} {i : Instr} (hi : microOp s.phase = some i)
    (h : ∀ e ∈ s.host.head?, hostTurn s e = false) : step s = exec i { s with host := countGap s.host } := by
  cases hh : s.host with
  | nil =>
    have hs : { s with host := countGap [] } = s := by rw [countGap, ← hh]
    rw [hs]
    simp only [step, fetch, hh, sequencerMove, hi]
  | cons e rest =>
    have ht : hostTurn s e = false := h e (by simp [hh])
    simp [step, fetch, hh, ht, sequencerMove, hi, countGap]

/-- The host's turn. -/
theorem step_host {s : State} {e : HostEvent} {rest : List HostEvent} (hh : s.host = e :: rest)
    (ht : hostTurn s e = true) :
    step s = match e.op with
      | .read wa => .next (recordRead wa { s with host := rest })
      | .write wa d =>
        if wa = Reg.cmd then exec (decodeCommand d) { s with host := rest }
        else .next (busWrite wa d { s with host := rest })
      | .wait => .next (recordRead Reg.status { s with host := rest })
      | .reset => .next (resetEngine { s with host := rest }) := by
  simp only [step, fetch, hh, ht, if_true, hostMove]
  cases e.op with
  | write wa d => by_cases hw : wa = Reg.cmd <;> simp [hw]
  | _ => rfl

/-- Nobody's turn. -/
theorem step_settled {s : State} (hp : s.phase = .idle) (hh : s.host = []) : step s = .next s := by
  simp [step, fetch, hh, sequencerMove, hp, microOp_idle]

/-- Everything a step can do. -/
theorem step_cases {s t : State} (h : step s = .next t) :
    (s.phase = .idle ∧ s.host = [] ∧ t = s) ∨
    (∃ i, microOp s.phase = some i ∧ (∀ e ∈ s.host.head?, hostTurn s e = false) ∧
      exec i { s with host := countGap s.host } = .next t) ∨
    (∃ e rest, s.host = e :: rest ∧ hostTurn s e = true ∧
      ((∃ wa, e.op = .read wa ∧ t = recordRead wa { s with host := rest }) ∨
       (∃ d, e.op = .write Reg.cmd d ∧ exec (decodeCommand d) { s with host := rest } = .next t) ∨
       (∃ wa d, e.op = .write wa d ∧ wa ≠ Reg.cmd ∧ t = busWrite wa d { s with host := rest }) ∨
       (e.op = .wait ∧ t = recordRead Reg.status { s with host := rest }) ∨
       (e.op = .reset ∧ t = resetEngine { s with host := rest }))) := by
  by_cases hturn : ∃ e rest, s.host = e :: rest ∧ hostTurn s e = true
  · obtain ⟨e, rest, hh, ht⟩ := hturn
    refine .inr (.inr ⟨e, rest, hh, ht, ?_⟩)
    rw [step_host hh ht] at h
    cases ho : e.op with
    | read wa => rw [ho] at h; cases h; exact .inl ⟨wa, rfl, rfl⟩
    | write wa d =>
      rw [ho] at h
      by_cases hw : wa = Reg.cmd
      · simp only [hw, if_true] at h
        exact .inr (.inl ⟨d, by rw [hw], h⟩)
      · simp only [hw, if_false] at h
        cases h
        exact .inr (.inr (.inl ⟨wa, d, rfl, hw, rfl⟩))
    | wait => rw [ho] at h; cases h; exact .inr (.inr (.inr (.inl ⟨rfl, rfl⟩)))
    | reset => rw [ho] at h; cases h; exact .inr (.inr (.inr (.inr ⟨rfl, rfl⟩)))
  · have hno : ∀ e ∈ s.host.head?, hostTurn s e = false := by
      intro e he
      cases hh : s.host with
      | nil => simp [hh] at he
      | cons e' rest =>
        rw [hh] at he
        cases he
        exact Bool.eq_false_iff.mpr fun ht => hturn ⟨e, rest, hh, ht⟩
    by_cases hp : s.phase = .idle
    · cases hh : s.host with
      | nil => rw [step_settled hp hh] at h; cases h; exact .inl ⟨hp, rfl, rfl⟩
      | cons e rest => exact absurd ⟨e, rest, hh, hostTurn_idle e hp⟩ hturn
    · obtain ⟨i, hi⟩ := microOp_busy hp
      rw [step_sequencer hi hno] at h
      exact .inr (.inl ⟨i, hi, by assumption, h⟩)

/-- The host moves exactly when the next pending transaction is due. -/
theorem hostMoves_cons {s : State} {e : HostEvent} {rest : List HostEvent} (hh : s.host = e :: rest) (op : HostOp) :
    HostMoves s op ↔ hostTurn s e = true ∧ e.op = op := by
  simp [HostMoves, hh]

theorem not_hostMoves_nil {s : State} (hh : s.host = []) (op : HostOp) : ¬HostMoves s op := by
  simp [HostMoves, hh]

end Sys2Proof.Machine
end

