-- ==== Sys2Proof/Tests/Slice0.lean ====
section
/-! SUPPORT. Tests: the well-formedness checks on ill-formed terms, every constructor's decoding from a word written out
from the spec's encoding, at most two small steps per instruction with expected values from the spec, and for every
obligation with hypotheses a witness that they can be met, each clause of it and its boundary values. -/

namespace Sys2Proof.Machine.Tests

/-! ## Well-formedness (R70) -/

theorem test_wf_refuses_the_four_commands :
    [Instr.illegal 0 0, .illegal 0 1, .illegal 0 2, .illegal 0 3].map Instr.wf = [false, false, false, false] := by decide

theorem test_wf_accepts_illegal_words :
    [Instr.illegal 0 4, .illegal 0 15, .illegal 1 0, .illegal 0xFFFFFFF 15].map Instr.wf = [true, true, true, true] := by
  decide

/-! ## Decoding words written out from R68, R69 and R74 -/

theorem test_decode_nop : decodeTableWord 32 0b00000000000000000000000000000000 = some .nop := by decide
theorem test_decode_init : decodeTableWord 32 0b00000000000000000000000000000001 = some .init := by decide
theorem test_decode_enc : decodeTableWord 32 0b00000000000000000000000000000010 = some .enc := by decide
theorem test_decode_dec : decodeTableWord 32 0b00000000000000000000000000000011 = some .dec := by decide
theorem test_decode_illegal_opcode :
    decodeTableWord 32 0b00000000000000000000000000000111 = some (.illegal 0 7) := by decide
theorem test_decode_illegal_reserved :
    decodeTableWord 32 0b10000000000000000000000000010001 = some (.illegal 0x8000001 1) := by decide
theorem test_decode_i_keychk : decodeTableWord 8 0b0001 = some .iKeychk := by decide
theorem test_decode_i_parchk : decodeTableWord 8 0b0010 = some .iParchk := by decide
theorem test_decode_i_widths : decodeTableWord 8 0b0011 = some .iWidths := by decide
theorem test_decode_i_exp : decodeTableWord 8 0b0100 = some .iExp := by decide
theorem test_decode_i_path : decodeTableWord 8 0b0101 = some .iPath := by decide
theorem test_decode_i_commit : decodeTableWord 8 0b0110 = some .iCommit := by decide
theorem test_decode_x_check : decodeTableWord 8 0b0111 = some .xCheck := by decide
theorem test_decode_x_split : decodeTableWord 8 0b1000 = some .xSplit := by decide
theorem test_decode_r_pack : decodeTableWord 8 0b1001 = some .rPack := by decide
theorem test_decode_r_ciph : decodeTableWord 8 0b1010 = some .rCiph := by decide
theorem test_decode_r_unpack : decodeTableWord 8 0b1011 = some .rUnpack := by decide
theorem test_decode_r_reduce : decodeTableWord 8 0b1100 = some .rReduce := by decide
theorem test_decode_r_mix : decodeTableWord 8 0b1101 = some .rMix := by decide
theorem test_decode_x_join : decodeTableWord 8 0b1110 = some .xJoin := by decide
theorem test_decode_no_micro_operation :
    [decodeTableWord 8 0, decodeTableWord 8 15, decodeTableWord 8 16] = [none, none, none] := by decide

/-! ## Small states -/

/-- `key16` of spec/95: the bytes 00 01 ... 0F, then 16 zero bytes. -/
def key16 : Bytes Config.keyMax := Vector.ofFn fun i => if i.val < 16 then BitVec.ofNat 8 i.val else 0

/-- The configuration of R126: radix 10, width 3, three rounds, `key16`. -/
def engine : State :=
  { State.reset with
    keylen := 16, key := key16, radix := 10, width := 3, rounds := 3, cfgValid := true, aKeylen := 16, aKey := key16
    aRadix := 10, aWidth := 3, aRounds := 3, pw0 := 2, pw1 := 1, mod0 := 100, mod1 := 10, blksz := 1000 }

/-- `engine` in the middle of a forward round of R126. -/
def inRound : State := { engine with din := 123, work0 := 23, work1 := 1, fromIdx := .lo, toIdx := .hi }

/-- What `f` reads of the next state of an instruction. -/
def after {α : Type} (i : Instr) (s : State) (f : State → α) : Option α :=
  match exec i s with
  | .next t => some (f t)
  | .fault _ => none
  | .refused _ => none

/-- What `f` reads of the state after one step. -/
def afterStep {α : Type} (s : State) (f : State → α) : Option α :=
  match step s with
  | .next t => some (f t)
  | .fault _ => none
  | .refused _ => none

/-- The host's next transaction, at once. -/
def ask (op : HostOp) (s : State) : State := { s with host := [{ gap := 0, op := op }] }

/-! ## One step of each instruction -/

/-- R84: `STATUS` of the configured engine is as it was. -/
theorem test_nop : after .nop { engine with err := 3, lastop := 2 } (busRead · Reg.status) = some 0x322 := by decide

/-- R86: `BUSY` is 1 after the acceptance, 0 before. -/
theorem test_init : after .init engine (busRead · Reg.status) = some 3 := by decide

/-- R50: while busy, nothing. -/
theorem test_init_while_busy : after .init { engine with phase := .rMix } State.phase = some .rMix := by decide

/-- R87. -/
theorem test_enc :
    after .enc { engine with dir := .inverse } (fun t => (t.dir, t.phase)) = some (.forward, .xCheck) := by decide

/-- R88. -/
theorem test_dec : after .dec engine (fun t => (t.dir, t.phase)) = some (.inverse, .xCheck) := by decide

/-- R85, example 1: `WR CMD 0x00000007` in `IDLE` without an engine, `STATUS = 0x00000570`. -/
theorem test_illegal : after (.illegal 0 7) State.reset (busRead · Reg.status) = some 0x570 := by decide

/-- R85: a word with `OP = 1` and a reserved bit records opcode 1 and starts nothing. -/
theorem test_illegal_reserved :
    after (.illegal 1 1) engine (fun t => (t.err, t.lastop, t.phase)) = some (5, 1, .idle) := by decide

/-- R92: 24 key bytes are accepted. -/
theorem test_i_keychk : after .iKeychk { engine with phase := .iKeychk, keylen := 24 } State.phase = some .iParchk := by
  decide

/-- R92, R89: 17 are not; the engine is gone. -/
theorem test_i_keychk_error :
    after .iKeychk { engine with phase := .iKeychk, keylen := 17 } (busRead · Reg.status) = some 0x110 := by decide

/-- R93: radix 2, width 1, one round are the smallest legal parameters. -/
theorem test_i_parchk :
    after .iParchk { engine with phase := .iParchk, radix := 2, width := 1, rounds := 1 } State.phase = some .iWidths := by
  decide

/-- R93: radix 1 is not legal. -/
theorem test_i_parchk_error :
    after .iParchk { engine with phase := .iParchk, radix := 1 } (busRead · Reg.status) = some 0x210 := by decide

/-- R94: width 7 is split 4 and 3. -/
theorem test_i_widths :
    after .iWidths { engine with width := 7, cnt := 9 } (fun t => (t.tPw0, t.tPw1, t.acc, t.cnt)) = some (4, 3, 1, 0) := by
  decide

/-- R95: at `CNT = T_PW[1]` the power is kept and multiplied on. -/
theorem test_i_exp :
    after .iExp { engine with phase := .iExp, tPw0 := 4, tPw1 := 3, cnt := 3, acc := 1000 }
      (fun t => (t.tMod1, t.acc, t.cnt, t.phase)) = some (1000, 10000, 4, .iExp) := by decide

/-- R95, R97: `10^20` exceeds `2^64`. -/
theorem test_i_exp_error :
    after .iExp { engine with phase := .iExp, tPw0 := 20, tPw1 := 20, cnt := 19, acc := 10000000000000000000 }
      (fun t => (t.err, t.lastop, t.cfgValid, t.phase)) = some (6, 1, false, .idle) := by decide

/-- R98: `10^7` fits in 32 bits. -/
theorem test_i_path_small :
    after .iPath { engine with tMod0 := 10000, tMod1 := 1000 } (fun t => (t.tBlk, t.tPath)) = some (10000000, .small) := by
  decide

/-- R98: `10^10` does not, and does not divide `2^128`. -/
theorem test_i_path_large :
    after .iPath { engine with tMod0 := 100000, tMod1 := 100000 } (fun t => (t.tBlk, t.tPath)) =
      some (10000000000, .large) := by decide

/-- R100: `CFGINFO` of key length 16, width 7 (spec/95: `0x10070304`). -/
theorem test_i_commit :
    after .iCommit { engine with phase := .iCommit, width := 7, tPw0 := 4, tPw1 := 3 } (busRead · Reg.cfginfo) =
      some 0x10070304 := by decide

/-- R100: key bytes at and above `KEYLEN` become 0. -/
theorem test_i_commit_key :
    after .iCommit { engine with phase := .iCommit, keylen := 16, key := Vector.replicate 32 0xAA }
      (fun t => (t.aKey[15], t.aKey[16])) = some (0xAA, 0) := by decide

/-- R117: no engine. -/
theorem test_x_check_not_configured :
    after .xCheck { State.reset with phase := .xCheck } (busRead · Reg.status) = some 0x420 := by decide

/-- R117: the operand 1000 is out of range, 999 is not. -/
theorem test_x_check_range :
    (after .xCheck { engine with phase := .xCheck, dir := .inverse, din := 1000 } (fun t => (t.err, t.lastop, t.phase)),
      after .xCheck { engine with phase := .xCheck, din := 999 } State.phase) = (some (3, 3, .idle), some .xSplit) := by
  decide

/-- R118: `1234567` with moduli 10000 and 1000. -/
theorem test_x_split :
    after .xSplit { engine with mod0 := 10000, mod1 := 1000, din := 1234567 } (fun t => (t.work0, t.work1)) =
      some (4567, 123) := by decide

/-- R128, R132: inverse, three rounds: `RND = 2`, `FROM = 0`, `TO = 1`. -/
theorem test_x_split_inverse :
    after .xSplit { engine with dir := .inverse, din := 552 } (fun t => (t.work0, t.work1, t.rnd, t.fromIdx, t.toIdx)) =
      some (52, 5, 2, .lo, .hi) := by decide

/-- R105: `RND = 3`, `WORK[FROM] = 0x0102030405060708`. -/
theorem test_r_pack :
    after .rPack { engine with rnd := 3, fromIdx := .hi, work1 := 0x0102030405060708 } (fun t => t.ptbuf.toList) =
      some [3, 0, 0, 0, 0, 0, 0, 0, 8, 7, 6, 5, 4, 3, 2, 1] := by decide

/-- R107: the request carries the 16 key bytes and the block. -/
theorem test_r_ciph :
    after .rCiph { inRound with ptbuf := Vector.replicate 16 7 }
      (fun t => (t.requests.map fun r => (r.key, r.pt.toList), t.phase)) =
      some ([([0, 1, 2, 3, 4, 5, 6, 7, 8, 9, 10, 11, 12, 13, 14, 15], List.replicate 16 7)], .rUnpack) := by decide

/-- The block `11 22 .. FF 00` of R108's example. -/
def block1122 : Block :=
  #v[0x11, 0x22, 0x33, 0x44, 0x55, 0x66, 0x77, 0x88, 0x99, 0xAA, 0xBB, 0xCC, 0xDD, 0xEE, 0xFF, 0x00]

/-- R108, small path. -/
theorem test_r_unpack_small : after .rUnpack { engine with ctbuf := block1122 } State.raw = some 0x8877665544332211 := by
  decide

/-- R108, large path. -/
theorem test_r_unpack_large :
    after .rUnpack { engine with ctbuf := block1122, path := .large } State.raw =
      some 0x00FFEEDDCCBBAA998877665544332211 := by decide

/-- R112: `0x8877665544332211 mod 1000 = 417`. -/
theorem test_r_reduce :
    after .rReduce { engine with raw := 0x8877665544332211, mod1 := 1000, toIdx := .hi } State.delta = some 417 := by
  decide

/-- R121: `4 + 29` modulo 100, the indices swapped and the round counted. -/
theorem test_r_mix_forward :
    after .rMix { engine with work0 := 4, delta := 29, fromIdx := .hi, toIdx := .lo, rnd := 1 }
      (fun t => (t.work0, t.fromIdx, t.toIdx, t.rnd, t.phase)) = some (33, .lo, .hi, 2, .rPack) := by decide

/-- R129: `4 - 29` modulo 100 is 75; round 0 is the last. -/
theorem test_r_mix_inverse :
    after .rMix { engine with dir := .inverse, work0 := 4, delta := 29, fromIdx := .hi, toIdx := .lo, rnd := 0 }
      (fun t => (t.work0, t.rnd, t.phase)) = some (75, 0, .xJoin) := by decide

/-- R126: `WORK = [52, 5]` joins to 552 and `ENC` is complete. -/
theorem test_x_join :
    after .xJoin { engine with phase := .xJoin, work0 := 52, work1 := 5 } (fun t => (t.dout, busRead t Reg.status)) =
      some (552, 0x22) := by decide

/-! ## The host port -/

/-- R53: the low 8 bits of a write to `WIDTH`. -/
theorem test_write_width : afterStep (ask (.write Reg.width 0xFFFFFF07) State.reset) State.width = some 7 := by decide

/-- R54: the high word of `RADIX`. -/
theorem test_write_radix_hi :
    afterStep (ask (.write Reg.radixHi 2) engine) State.radix = some 0x20000000A := by decide

/-- R55: a key word, least significant byte first. -/
theorem test_write_key :
    afterStep (ask (.write (Reg.key 7) 0x04030201) engine) (fun t => (t.key[28], t.key[31], t.key[27])) =
      some (1, 4, 0) := by decide

/-- R48, R52: `CMD`, `KEY0` and a reserved word read 0. -/
theorem test_read_zero :
    (busRead engine Reg.cmd, busRead engine (Reg.key 0), busRead engine 63) = (0, 0, 0) := by decide

/-- R48: what `BLKSZ_0` returned is recorded. -/
theorem test_read_blksz :
    afterStep (ask (.read (Reg.blksz 0)) engine) State.reads = some [(Reg.blksz 0, 1000)] := by decide

/-- R46, R57: byte offset 4 is `STATUS`; 6 and 256 are no word. -/
theorem test_offsets : (memRead engine 4, memRead engine 6, memRead engine 256) = (some 2, none, none) := by decide

/-- R81: the writes of `LDKEY 00 01 02 03 04`. -/
theorem test_script_ldkey :
    Script.ldKey [0, 1, 2, 3, 4] =
      [.write Reg.keylen 5, .write (Reg.key 0) 0x03020100, .write (Reg.key 1) 0x00000004] := by decide

/-- The host's placing of a word: a command and a micro-operation are what the next step runs. -/
theorem test_placed_words :
    (afterStep (State.reset.withFetchWord 32 3) (fun t => (t.dir, t.phase)),
      afterStep (State.reset.withFetchWord 8 3) (fun t => (t.acc, t.phase))) =
      (some (.inverse, .xCheck), some (1, .iExp)) := by decide

/-! ## The reference functions with the test ciphers of spec/95 -/

/-- `TC_ID`. -/
def tcId : Cipher := fun _ pt => pt

/-- `TC_MIX`. -/
def tcMix : Cipher := fun key pt =>
  let x := (fromLE pt.toList * 0x9E3779B97F4A7C15F39CC0605CEDC835 +
    (fromLE key % 2 ^ 128 + fromLE key / 2 ^ 128) % 2 ^ 128) % 2 ^ 128
  leBytes 16 (x / 2 ^ 64 + x % 2 ^ 64 * 2 ^ 64)

/-- Radix 10, width 7, ten rounds, `key16` (spec/95). -/
def cfg7 : Cfg := { key := key16.toList.take 16, rounds := 10, mod0 := 10000, mod1 := 1000, path := .small }

/-- Spec/95: the block with 1 in byte 0 under `key16`. -/
theorem test_tc_mix :
    (tcMix cfg7.key (packBlock 1 0)).toList =
      [0x1d, 0x85, 0x54, 0x8a, 0xc5, 0x86, 0x45, 0xad, 0x35, 0xc9, 0xef, 0x5f, 0x64, 0xc5, 0xa2, 0xfa] := by decide

/-- R126: 123 encrypts to 552. -/
theorem test_encrypt_mix : encrypt tcMix engine.cfg 123 = 552 := by decide

/-- R132: 552 decrypts to 123. -/
theorem test_decrypt_mix : decrypt tcMix engine.cfg 552 = 123 := by decide

/-- Spec/95, TC_MIX: 0 to 6127266. -/
theorem test_encrypt_mix_7 : encrypt tcMix cfg7 0 = 6127266 := by decide

/-- Spec/95, TC_ID: 0 to 200025. -/
theorem test_encrypt_id_7 : encrypt tcId cfg7 0 = 200025 := by decide

/-- R102, spec/95: radix 10, width 7. -/
theorem test_derive :
    derive 16 10 7 10 =
      .ok { pw0 := 4, pw1 := 3, mod0 := 10000, mod1 := 1000, blk := 10000000, path := .small } := by decide

/-- Spec/96, V6.7: the largest domain, radix 2, width 128, two rounds, `key24`. -/
theorem test_encrypt_mix_largest :
    encrypt tcMix
        { key := [0, 1, 2, 3, 4, 5, 6, 7, 8, 9, 10, 11, 12, 13, 14, 15, 16, 17, 18, 19, 20, 21, 22, 23], rounds := 2
          mod0 := 2 ^ 64, mod1 := 2 ^ 64, path := .large }
        340282366920938463463374607431768211455 = 36477440496237379309734589495041065111 := by decide

/-- R97: radix 10 is within capacity up to width 38. -/
theorem test_derive_capacity :
    ((derive 16 10 38 1).toOption.isSome, derive 16 10 39 1) = (true, .error .capacityExceeded) := by decide

/-! ## Witnesses: the hypotheses of each obligation can be met -/

/-- A host transaction that comes after five sequencer steps, or at once in `IDLE`. -/
def askLater (op : HostOp) (s : State) : State := { s with host := [{ gap := 5, op := op }] }

/-- `engine` in a phase. -/
def engineAt (p : Phase) : State := { engine with phase := p }

theorem witness_DecodeEncodeRoundTrip :
    Instr.xJoin.wf = true ∧ (Instr.illegal 0 4).wf = true ∧ (Instr.illegal 1 0).wf = true := by decide

theorem witness_EveryWordIsACommandOrIllegal :
    (4 ≤ (4#32).toNat % 16 ∧ 4 ≤ (15#32).toNat % 16 ∧ (16#32).toNat / 16 ≠ 0 ∧ (0xFFFFFFFF#32).toNat / 16 ≠ 0) ∧
    ¬((0#32).toNat / 16 ≠ 0 ∨ 4 ≤ (0#32).toNat % 16) ∧ ¬((3#32).toNat / 16 ≠ 0 ∨ 4 ≤ (3#32).toNat % 16) ∧
    engine.phase = .idle := by decide

theorem witness_WrittenOutWordsDecode : 16 ≤ (16#8).toNat ∧ 16 ≤ (255#8).toNat := by decide

/-- In `IDLE` whatever the gap, while busy with no gap; the word is `ENC`. -/
theorem witness_StepRunsTheCommandWord :
    ((askLater (.write Reg.cmd 2) engine).host = [{ gap := 5, op := .write Reg.cmd 2 }] ∧ engine.phase = .idle) ∧
    (ask (.write Reg.cmd 2) (engineAt .rMix)).host = [{ gap := 0, op := .write Reg.cmd 2 }] ∧
    (engineAt .rMix).phase ≠ .idle ∧ decode (commandBytes 2) = .ok .enc := by decide

/-- With nothing pending, with a gap left, and with a `WAIT` pending. -/
theorem witness_StepRunsTheMicroOperation :
    decode [(engineAt .rMix).phase.code.setWidth 8] = .ok .rMix ∧ (engineAt .rMix).host = [] ∧
    (∃ e rest, (askLater (.read Reg.status) (engineAt .rMix)).host = e :: rest ∧ e.gap ≠ 0) ∧
    ∃ e rest, (ask .wait (engineAt .rMix)).host = e :: rest ∧ e.gap = 0 ∧ e.op = .wait :=
  ⟨by decide, rfl, ⟨_, _, rfl, by decide⟩, ⟨_, _, rfl, rfl, rfl⟩⟩

theorem witness_IdleEngineWaitsForTheHost : RunEnded State.reset := by decide

theorem witness_ReadChangesNothing :
    ((askLater (.read (Reg.dout 3)) engine).host = [{ gap := 5, op := .read (Reg.dout 3) }] ∧ engine.phase = .idle) ∧
    (ask (.read Reg.status) (engineAt .rPack)).host = [{ gap := 0, op := .read Reg.status }] ∧
    (engineAt .rPack).phase ≠ .idle := by decide

theorem witness_WriteOnlyAndReservedReadZero :
    ∀ wa ∈ [0#6, 7#6, 15#6, 28#6, 31#6, 35#6, 39#6, 45#6, 63#6],
      wa.toNat = 0 ∨ (7 ≤ wa.toNat ∧ wa.toNat ≤ 15) ∨ (28 ≤ wa.toNat ∧ wa.toNat ≤ 31) ∨ wa.toNat = 35 ∨
        wa.toNat = 39 ∨ 45 ≤ wa.toNat := by decide

theorem witness_WriteWhileBusyIsDropped :
    (ask (.write Reg.cmd 1) (engineAt .xCheck)).host = [{ gap := 0, op := .write Reg.cmd 1 }] ∧
    (ask (.write (Reg.din 0) 9) (engineAt .iExp)).host = [{ gap := 0, op := .write (Reg.din 0) 9 }] ∧
    (engineAt .xCheck).phase ≠ .idle ∧ (engineAt .iExp).phase ≠ .idle := by decide

/-- The words of every clause: read-write ones, the two narrow ones, the first and last key word, and read-only and
reserved ones. -/
theorem witness_IdleWriteStoresItsWord :
    ∀ wa ∈ [2#6, 4#6, 6#6, 8#6, 15#6, 7#6, 19#6, 20#6, 63#6], wa ≠ Reg.cmd ∧ engine.phase = .idle ∧
      (askLater (.write wa 0xFFFFFFFF) engine).host = [{ gap := 5, op := .write wa 0xFFFFFFFF }] := by decide

theorem witness_KeyWriteLaysBytesLittleEndian :
    ∀ j ∈ [0, 7], j < 8 ∧ engine.phase = .idle ∧
      (ask (.write (Reg.key j) 5) engine).host = [{ gap := 0, op := .write (Reg.key j) 5 }] := by decide

theorem witness_ResetFromAnyState :
    ((askLater .reset engine).host = [{ gap := 5, op := .reset }] ∧ engine.phase = .idle) ∧
    (ask .reset (engineAt .rCiph)).host = [{ gap := 0, op := .reset }] ∧ (engineAt .rCiph).phase ≠ .idle := by decide

theorem witness_WaitEndsWhenBusyIsZero :
    ((ask .wait engine).host = [{ gap := 0, op := .wait }] ∧ engine.phase = .idle) ∧
    (ask .wait (engineAt .iExp)).host = [{ gap := 0, op := .wait }] ∧ (engineAt .iExp).phase ≠ .idle := by decide

theorem witness_IllegalCommandRecordsItsOpcode :
    engine.phase = .idle ∧ (16#32).toNat / 16 ≠ 0 ∧ 4 ≤ (4#32).toNat % 16 ∧ State.reset.phase = .idle ∧
    State.reset.cfgValid = false := by decide

theorem witness_InitIsAccepted : engine.phase = .idle ∧ (engineAt .xJoin).phase ≠ .idle := by decide
theorem witness_EncIsAccepted : State.reset.phase = .idle := rfl
theorem witness_DecIsAccepted : engine.phase = .idle := rfl

theorem witness_KeyLengthIsChecked :
    (∀ n ∈ [16#6, 24#6, 32#6], n = 16 ∨ n = 24 ∨ n = 32) ∧
    (∀ n ∈ [0#6, 15#6, 17#6, 33#6, 63#6], ¬(n = 16 ∨ n = 24 ∨ n = 32)) ∧ (engineAt .iKeychk).phase = .iKeychk := by decide

/-- The least legal parameters, and each of them one less. -/
theorem witness_ParametersAreChecked :
    (2 ≤ (2#64).toNat ∧ 1 ≤ (1#8).toNat ∧ 1 ≤ (1#32).toNat) ∧
    ((1#64).toNat < 2 ∧ (0#8).toNat < 1 ∧ (0#32).toNat < 1) ∧ (engineAt .iParchk).phase = .iParchk := by decide

theorem witness_DigitWidthsAreHalves : 1 ≤ engine.width.toNat := by decide

/-- A state of `I_EXP` of radix 2, with `ACC = 2^CNT`. -/
def expAt (cnt pw0 pw1 : BitVec 8) : State :=
  { engineAt .iExp with radix := 2, cnt := cnt, tPw0 := pw0, tPw1 := pw1, acc := BitVec.ofNat 129 (2 ^ cnt.toNat) }

/-- `2^64 * 2` exceeds the capacity, `2^63 * 2` does not; the last power, with the two widths equal and different. -/
theorem witness_ExponentiationStep :
    (∀ s ∈ [expAt 64 65 64, expAt 63 64 63, expAt 64 64 64, expAt 64 64 63],
      s.phase = .iExp ∧ s.acc.toNat ≤ 2 ^ 64 ∧ s.cnt.toNat ≤ s.tPw0.toNat) ∧
    (expAt 64 65 64).cnt.toNat < 65 ∧ 2 ^ 64 < (expAt 64 65 64).acc.toNat * 2 ∧
    (expAt 63 64 63).cnt.toNat < 64 ∧ (expAt 63 64 63).acc.toNat * 2 ≤ 2 ^ 64 ∧
    (expAt 64 64 64).cnt = (expAt 64 64 64).tPw0 ∧ (expAt 64 64 64).cnt = (expAt 64 64 64).tPw1 ∧
    (expAt 64 64 63).cnt = (expAt 64 64 63).tPw0 ∧ (expAt 64 64 63).cnt ≠ (expAt 64 64 63).tPw1 := by decide

theorem witness_PathIsSelectedByBlockSize :
    (18446744073709551616#65).toNat ≤ 2 ^ 64 ∧ (1#65).toNat ≤ 2 ^ 64 := by decide

theorem witness_CommitBuildsTheConfiguration : (engineAt .iCommit).phase = .iCommit := rfl

/-- No engine; `DIN = BLKSZ`; `DIN = BLKSZ - 1`. -/
theorem witness_EngineAndRangeAreChecked :
    (engineAt .xCheck).phase = .xCheck ∧ State.reset.cfgValid = false ∧ engine.cfgValid = true ∧
    engine.blksz.toNat ≤ (1000#128).toNat ∧ (999#128).toNat < engine.blksz.toNat := by decide

/-- The moduli of `engine`, and the largest and the smallest. -/
theorem witness_SplitStartsTheForwardPass :
    (1 ≤ engine.mod0.toNat ∧ engine.mod0.toNat ≤ 2 ^ 64 ∧ 1 ≤ engine.mod1.toNat ∧ engine.mod1.toNat ≤ 2 ^ 64 ∧
      engine.dir = .forward) ∧
    (18446744073709551616#65).toNat ≤ 2 ^ 64 ∧ 1 ≤ (1#65).toNat := by decide

/-- An odd and an even number of rounds. -/
theorem witness_SplitStartsTheInversePass :
    ∀ s ∈ [{ engine with dir := .inverse, aRounds := 1 }, { engine with dir := .inverse, aRounds := 2 }],
      1 ≤ s.mod0.toNat ∧ s.mod0.toNat ≤ 2 ^ 64 ∧ 1 ≤ s.mod1.toNat ∧ s.mod1.toNat ≤ 2 ^ 64 ∧ s.dir = .inverse ∧
        1 ≤ s.aRounds.toNat := by decide

theorem witness_UnpackTakesLowOrAllBytes : engine.path = .small ∧ { engine with path := .large }.path = .large := by decide

/-- The largest modulus and the smallest. -/
theorem witness_ReduceTakesTheRemainder :
    ∀ s ∈ [{ engine with mod0 := 18446744073709551616 }, { engine with mod0 := 1 }],
      1 ≤ (s.modulus s.toIdx).toNat ∧ (s.modulus s.toIdx).toNat ≤ 2 ^ 64 := by decide

/-- Sums below the modulus and equal to it, in a round that is not the last and in the last. -/
theorem witness_MixAddsForward :
    ∀ s ∈ [{ engine with work0 := 40, delta := 59, rnd := 1 }, { engine with work0 := 40, delta := 60, rnd := 2 }],
      s.dir = .forward ∧ (s.work s.toIdx).toNat < (s.modulus s.toIdx).toNat ∧
        s.delta.toNat < (s.modulus s.toIdx).toNat ∧ (s.modulus s.toIdx).toNat ≤ 2 ^ 64 ∧
        s.rnd.toNat < s.aRounds.toNat := by decide

/-- Equal values and a difference below zero, in a round that is not the last and in the last. -/
theorem witness_MixSubtractsInverse :
    ∀ s ∈ [{ engine with dir := .inverse, work0 := 40, delta := 40, rnd := 1 },
        { engine with dir := .inverse, work0 := 40, delta := 41, rnd := 0 }],
      s.dir = .inverse ∧ (s.work s.toIdx).toNat < (s.modulus s.toIdx).toNat ∧
        s.delta.toNat < (s.modulus s.toIdx).toNat ∧ (s.modulus s.toIdx).toNat ≤ 2 ^ 64 := by decide

/-- The state of R126, and the largest work values of the largest domain. -/
theorem witness_JoinWritesTheResult :
    ∀ s ∈ [{ engineAt .xJoin with work0 := 52, work1 := 5 },
        { engineAt .xJoin with
          mod0 := 18446744073709551616, mod1 := 18446744073709551616, work0 := 18446744073709551615
          work1 := 18446744073709551615 }],
      s.phase = .xJoin ∧ s.work0.toNat < s.mod0.toNat ∧ s.work1.toNat < s.mod1.toNat ∧
        s.mod0.toNat * s.mod1.toNat ≤ 2 ^ 128 := by decide

/-- An error of a pass and one of `INIT`. -/
theorem witness_ErrorChangesOnlyStatus :
    (decode [(engineAt .xCheck).phase.code.setWidth 8] = .ok .xCheck ∧
      after .xCheck { engineAt .xCheck with din := 1000 } (fun t => (t.phase, t.err)) = some (.idle, 3)) ∧
    decode [(engineAt .iKeychk).phase.code.setWidth 8] = .ok .iKeychk ∧
    after .iKeychk { engineAt .iKeychk with keylen := 33 } (fun t => (t.phase, t.err)) = some (.idle, 1) := by decide

/-- Parameters that end in each of the four results. -/
theorem witness_InitComputesTheDerivation :
    (engineAt .iKeychk).phase = .iKeychk ∧ (engineAt .iKeychk).host = [] ∧
    (initResult (engineAt .iKeychk)).err = 0 ∧ (initResult { engineAt .iKeychk with keylen := 0 }).err = 1 ∧
    (initResult { engineAt .iKeychk with radix := 1 }).err = 2 ∧
    (initResult { engineAt .iKeychk with width := 39 }).err = 6 := by decide

theorem engine_inv : Inv engine := ⟨by decide, by decide, by decide, by decide⟩

/-- An engine at `X_CHECK` with an operand in range, one with an operand out of range, and no engine. -/
theorem witness_PassComputesItsFunction :
    (Inv { engineAt .xCheck with din := 999 } ∧ (999#128).toNat < (engineAt .xCheck).blksz.toNat) ∧
    (Inv { engineAt .xCheck with din := 1000, dir := .inverse } ∧ engine.blksz.toNat ≤ (1000#128).toNat) ∧
    (Inv { State.reset with phase := .xCheck } ∧ State.reset.cfgValid = false) ∧
    (engineAt .xCheck).phase = .xCheck ∧ (engineAt .xCheck).host = [] ∧ (engineAt .xCheck).cfgValid = true :=
  ⟨⟨⟨by decide, by decide, by decide, by decide⟩, by decide⟩, ⟨⟨by decide, by decide, by decide, by decide⟩, by decide⟩,
    ⟨⟨by decide, by decide, by decide, by decide⟩, rfl⟩, rfl, rfl, rfl⟩

theorem witness_RequestsFollowTheRounds :
    engine.cfg.rounds < 2 ^ 32 ∧ (∃ r, (passRequests tcId engine.cfg .forward 123)[0]? = some r) ∧
    ∃ r, (passRequests tcId engine.cfg .inverse 552)[2]? = some r :=
  ⟨by decide, ⟨_, rfl⟩, ⟨_, rfl⟩⟩

/-- The ends of the domain, and the largest pair. -/
theorem witness_SplitAndJoinAreInverse :
    1 ≤ engine.cfg.mod0 ∧ 1 ≤ engine.cfg.mod1 ∧ 0 < engine.cfg.blksz ∧ 999 < engine.cfg.blksz ∧
    (Pair.mk 99 9).lo < engine.cfg.mod0 ∧ (Pair.mk 99 9).hi < engine.cfg.mod1 := by decide

theorem witness_DecryptInvertsEncrypt :
    1 ≤ engine.cfg.mod0 ∧ 1 ≤ engine.cfg.mod1 ∧ 0 < engine.cfg.blksz ∧ 999 < engine.cfg.blksz := by decide

theorem witness_EncryptIsAPermutation : 1 ≤ cfg7.mod0 ∧ 1 ≤ cfg7.mod1 := by decide

/-- Radix 4, width 3 (spec/96): block size `2^6`. -/
theorem witness_PathIsInvisibleForPowersOfTwo :
    (1 ≤ 1 ∧ 1 ∣ 2 ^ 64) ∧ (1 ≤ 2 ^ 64 ∧ 2 ^ 64 ∣ 2 ^ 64) ∧
    { engine.cfg with mod0 := 16, mod1 := 4 }.blksz = 2 ^ 6 ∧ 16 ≤ 2 ^ 64 ∧ 4 ≤ 2 ^ 64 := by decide

/-- Width 1 with one round; one round of the configuration of R126. -/
theorem witness_EdgeConfigurationsOfThePass :
    (∀ c ∈ [{ engine.cfg with mod0 := 10, mod1 := 1, rounds := 1 }], 1 ≤ c.mod0 ∧ c.mod1 = 1 ∧ c.rounds = 1 ∧ 9 < c.mod0) ∧
    ∀ c ∈ [{ engine.cfg with rounds := 1 }], 1 ≤ c.mod0 ∧ 1 ≤ c.mod1 ∧ c.rounds = 1 ∧ 999 < c.blksz := by decide

/-- An odd width, and the smallest. -/
theorem witness_DerivedValuesAreExact :
    (derive 16 10 7 10).toOption.isSome = true ∧ (derive 24 2 128 1).toOption.isSome = true ∧
    derive 32 2 1 1 = .ok { pw0 := 1, pw1 := 0, mod0 := 2, mod1 := 1, blk := 2, path := .small } := by decide

/-- The bounds themselves: radix 2 at widths 128 and 129, the largest radices at widths 2 and 3. -/
theorem witness_CapacityEndsWhereStated :
    (2 ≤ 2 ∧ 1 ≤ 128 ∧ 1 ≤ 1 ∧ 2 ^ 32 + 1 ≤ 2 ^ 64 - 1 ∧ 2 ^ 64 - 1 < 2 ^ 64) ∧
    (derive 16 2 128 1).toOption.isSome = true ∧ derive 16 2 129 1 = .error .capacityExceeded ∧
    (derive 16 (2 ^ 64 - 1) 2 1).toOption.isSome = true ∧ derive 16 (2 ^ 32 + 1) 3 1 = .error .capacityExceeded := by decide

/-- A busy state of the invariant that steps. -/
theorem witness_EveryStepKeepsTheInvariant :
    Inv engine ∧ ∃ t, step (ask (.write Reg.cmd 2) engine) = .next t ∧ t.phase = .xCheck :=
  ⟨engine_inv, _, rfl, rfl⟩

/-- A step of a pass with a reset pending but not yet due, a write of the host while `PHASE = I_COMMIT`, and the step of
`INIT` that clears `CFG_VALID`. -/
theorem witness_ConfigurationIsImmutable :
    (∃ t, step (askLater .reset (engineAt .rPack)) = .next t ∧ ¬HostMoves (askLater .reset (engineAt .rPack)) .reset ∧
      (engineAt .rPack).phase ≠ .iCommit) ∧
    (∃ t, step (ask (.write Reg.width 9) (engineAt .iCommit)) = .next t ∧
      ¬HostMoves (ask (.write Reg.width 9) (engineAt .iCommit)) .reset ∧
      HostMoves (ask (.write Reg.width 9) (engineAt .iCommit)) (.write Reg.width 9)) ∧
    ∃ t, step { engineAt .iKeychk with keylen := 17 } = .next t ∧
      ¬HostMoves { engineAt .iKeychk with keylen := 17 } .reset ∧ t.cfgValid = false ∧ t.phase = .idle :=
  ⟨⟨_, rfl, by simp [HostMoves, askLater, hostTurn, State.busy, engineAt], by decide⟩,
    ⟨_, rfl, by simp [HostMoves, ask], ⟨_, rfl, by decide, rfl⟩⟩,
    ⟨_, rfl, by simp [HostMoves, engineAt, engine, State.reset], rfl, rfl⟩⟩

theorem witness_RunningCommandIsInvisible :
    ∃ t, step (engineAt .rPack) = .next t ∧ (engineAt .rPack).phase ≠ .idle ∧ t.phase ≠ .idle :=
  ⟨_, rfl, by decide, by decide⟩

/-- Two states with different keys and different scratch. -/
theorem witness_KeyAndScratchAreHidden :
    engine.hideSecrets = { engine with key := Vector.replicate 32 1, aKey := Vector.replicate 32 2, rnd := 7 }.hideSecrets ∧
    engine ≠ { engine with key := Vector.replicate 32 1, aKey := Vector.replicate 32 2, rnd := 7 } := by decide

/-- Two idle states that differ in scratch, about to run `ENC`. -/
theorem witness_OldScratchNeverMatters :
    (ask (.write Reg.cmd 2) engine).phase = .idle ∧
    SameButScratch (ask (.write Reg.cmd 2) engine) { ask (.write Reg.cmd 2) engine with work0 := 9, rnd := 7 } ∧
    ∃ s', RunsTo 1 (ask (.write Reg.cmd 2) engine) s' :=
  ⟨rfl, rfl, _, rfl⟩

/-- Two interleavings of a script that waits for its `ENC`. -/
theorem witness_InterleavingNeverMatters :
    ∃ s t : State, s.phase = .idle ∧ s ≠ t ∧ s.eraseGaps = t.eraseGaps ∧
      waitsForCommands (s.host.map HostEvent.op) = true ∧ ∃ s', RunsTo 1 s s' :=
  ⟨{ engine with host := Script.events [Script.enc, .wait, .read Reg.status] },
    { engine with host := [⟨4, Script.enc⟩, ⟨2, .wait⟩, ⟨9, .read Reg.status⟩] }, rfl, by decide, rfl, by decide, _, rfl⟩

theorem witness_EveryCommandCompletes : Inv (engineAt .xCheck) ∧ (engineAt .xCheck).host = [] :=
  ⟨⟨by decide, by decide, by decide, by decide⟩, rfl⟩

/-- `NEW key16, 3, 10, 3` after reset (spec/97, P1). -/
theorem witness_NewConstructsTheEngine :
    ∃ s : State, s.phase = .idle ∧ s.host = Script.events (Script.new engine.activeKey 3 10 3) ∧
      engine.activeKey.length = 16 ∧ 16 ≤ (31 : Fin 32).val ∧ 1 ≤ 3 ∧ 3 < 2 ^ 32 ∧ 2 ≤ 10 ∧ 10 < 2 ^ 64 ∧ 3 < 2 ^ 8 ∧ 10 ^ ((3 + 1) / 2) ≤ 2 ^ 64 :=
  ⟨{ State.reset with host := Script.events (Script.new engine.activeKey 3 10 3) }, by decide⟩

/-- `ENCRYPT 123` on the engine of R126 (spec/97, P1). -/
theorem witness_RoundTripAtThePort :
    ∃ s : State, Inv s ∧ s.phase = .idle ∧ s.cfgValid = true ∧ 123 < s.blksz.toNat ∧
      s.host = Script.events (Script.encrypt 123) :=
  ⟨{ engine with host := Script.events (Script.encrypt 123) }, ⟨by decide, by decide, by decide, by decide⟩, by decide⟩

end Sys2Proof.Machine.Tests
end

section
/-! Multi-word registers at the host port: what each register word reads, and how words add up to a register (R54). -/

namespace Sys2Proof.Machine

/-! ## The words that make up a register -/

/-- The low `k` words of a register are its value modulo `2^(32k)`, the word at the lowest offset weighing least. -/
theorem toNat_mod_eq_sum_words {n : Nat} (v : BitVec n) (k : Nat) :
    v.toNat % 2 ^ (32 * k) = ∑ j ∈ Finset.range k, 2 ^ (32 * j) * (wordOf v j).toNat := by
  induction k with
  | zero => simp [Nat.mod_one]
  | succ k ih => rw [Finset.sum_range_succ, ← ih, wordOf_toNat, Nat.mul_succ, Nat.pow_add, Nat.mod_mul]

/-- `k` words that cover a register determine it. -/
theorem toNat_eq_sum_words {n : Nat} (v : BitVec n) (k : Nat) (hcover : n ≤ 32 * k) :
    v.toNat = ∑ j ∈ Finset.range k, 2 ^ (32 * j) * (wordOf v j).toNat := by
  have hfit : v.toNat < 2 ^ (32 * k) := v.isLt.trans_le (Nat.pow_le_pow_right Nat.two_pos hcover)
  rw [← toNat_mod_eq_sum_words, Nat.mod_eq_of_lt hfit]

/-- A register of at most one word reads as its value, zero-extended (R53). -/
theorem wordOf_zero_toNat {n : Nat} (v : BitVec n) (hcover : n ≤ 32) : (wordOf v 0).toNat = v.toNat := by
  simpa using (toNat_eq_sum_words v 1 hcover).symm

theorem toNat_eq_two_words {n : Nat} (v : BitVec n) (hcover : n ≤ 64) :
    v.toNat = (wordOf v 0).toNat + 2 ^ 32 * (wordOf v 1).toNat := by
  simpa [Finset.sum_range_succ] using toNat_eq_sum_words v 2 hcover

theorem toNat_eq_three_words {n : Nat} (v : BitVec n) (hcover : n ≤ 96) :
    v.toNat = (wordOf v 0).toNat + 2 ^ 32 * (wordOf v 1).toNat + 2 ^ 64 * (wordOf v 2).toNat := by
  simpa [Finset.sum_range_succ] using toNat_eq_sum_words v 3 hcover

theorem toNat_eq_four_words {n : Nat} (v : BitVec n) (hcover : n ≤ 128) :
    v.toNat = (wordOf v 0).toNat + 2 ^ 32 * (wordOf v 1).toNat + 2 ^ 64 * (wordOf v 2).toNat +
      2 ^ 96 * (wordOf v 3).toNat := by
  simpa [Finset.sum_range_succ] using toNat_eq_sum_words v 4 hcover

theorem toNat_eq_five_words {n : Nat} (v : BitVec n) (hcover : n ≤ 160) :
    v.toNat = (wordOf v 0).toNat + 2 ^ 32 * (wordOf v 1).toNat + 2 ^ 64 * (wordOf v 2).toNat +
      2 ^ 96 * (wordOf v 3).toNat + 2 ^ 128 * (wordOf v 4).toNat := by
  simpa [Finset.sum_range_succ] using toNat_eq_sum_words v 5 hcover

/-! ## What the words of the register map read (R51) -/

section
variable (s : State)

@[simp] theorem busRead_regRadixLo : busRead s Reg.radixLo = wordOf s.radix 0 := rfl
@[simp] theorem busRead_regRadixHi : busRead s Reg.radixHi = wordOf s.radix 1 := rfl
@[simp] theorem busRead_regWidth : busRead s Reg.width = wordOf s.width 0 := rfl
@[simp] theorem busRead_regRounds : busRead s Reg.rounds = wordOf s.rounds 0 := rfl
@[simp] theorem busRead_regKeylen : busRead s Reg.keylen = wordOf s.keylen 0 := rfl
@[simp] theorem busRead_regARounds : busRead s Reg.aRounds = wordOf s.aRounds 0 := rfl
@[simp] theorem busRead_regARadixLo : busRead s Reg.aRadixLo = wordOf s.aRadix 0 := rfl
@[simp] theorem busRead_regARadixHi : busRead s Reg.aRadixHi = wordOf s.aRadix 1 := rfl

@[simp] theorem busRead_regDin {j : Nat} (hj : j < 4) : busRead s (Reg.din j) = wordOf s.din j := by
  interval_cases j <;> rfl

@[simp] theorem busRead_regDout {j : Nat} (hj : j < 4) : busRead s (Reg.dout j) = wordOf s.dout j := by
  interval_cases j <;> rfl

@[simp] theorem busRead_regMod0 {j : Nat} (hj : j < 3) : busRead s (Reg.mod0 j) = wordOf s.mod0 j := by
  interval_cases j <;> rfl

@[simp] theorem busRead_regMod1 {j : Nat} (hj : j < 3) : busRead s (Reg.mod1 j) = wordOf s.mod1 j := by
  interval_cases j <;> rfl

@[simp] theorem busRead_regBlksz {j : Nat} (hj : j < 5) : busRead s (Reg.blksz j) = wordOf s.blksz j := by
  interval_cases j <;> rfl

end

/-- Settles O14: each read is a word of its register, and the words that cover a register add up to its value. -/
theorem wideRegistersReadLittleEndian : Obligations.WideRegistersReadLittleEndian := by
  intro s
  simp (disch := decide) only [busRead_regRadixLo, busRead_regRadixHi, busRead_regDin, busRead_regDout,
    busRead_regARadixLo, busRead_regARadixHi, busRead_regMod0, busRead_regMod1, busRead_regBlksz, busRead_regWidth,
    busRead_regRounds, busRead_regKeylen, busRead_regARounds]
  exact ⟨toNat_eq_two_words s.radix (by decide), toNat_eq_four_words s.din (by decide),
    toNat_eq_four_words s.dout (by decide), toNat_eq_two_words s.aRadix (by decide),
    toNat_eq_three_words s.mod0 (by decide), toNat_eq_three_words s.mod1 (by decide),
    toNat_eq_five_words s.blksz (by decide), wordOf_zero_toNat s.width (by decide),
    wordOf_zero_toNat s.rounds (by decide), wordOf_zero_toNat s.keylen (by decide),
    wordOf_zero_toNat s.aRounds (by decide)⟩

end Sys2Proof.Machine
end

section
/-! The encodings the host sees: the fields of a command word (R68, R70), and the layout of the two read-only words
`STATUS` and `CFGINFO` (R71, R73). -/

namespace Sys2Proof.Machine

/-! ## Command words (R68, R69, R70) -/

theorem opField_toNat (d : BusWord) : (opField d).toNat = d.toNat % 16 := by
  simp [opField, BitVec.extractLsb'_toNat]

theorem rsvField_toNat (d : BusWord) : (rsvField d).toNat = d.toNat / 16 := by
  have hd : d.toNat < 2 ^ 32 := d.isLt
  rw [rsvField, BitVec.extractLsb'_toNat, Nat.shiftRight_eq_div_pow]
  omega

/-- The condition of R70 on the two fields of a word, as a bound on the word: the four commands are the words 0 to 3. -/
theorem fields_illegal_iff (v : Nat) : v / 16 ≠ 0 ∨ 4 ≤ v % 16 ↔ 4 ≤ v := by
  omega

/-- A word above the four commands is illegal and keeps its two fields. -/
theorem decodeCommand_of_four_le {d : BusWord} (h : 4 ≤ d.toNat) :
    decodeCommand d = .illegal (rsvField d) (opField d) := by
  have hne : ∀ c : BusWord, c.toNat < 4 → d ≠ c := by
    rintro c hc rfl
    omega
  rw [decodeCommand, if_neg (hne _ (by decide)), if_neg (hne _ (by decide)), if_neg (hne _ (by decide)),
    if_neg (hne _ (by decide))]

/-- The words 0 to 3 are the four commands (R69). -/
theorem decodeCommand_of_lt_four {d : BusWord} (h : d.toNat < 4) :
    (d.toNat = 0 ∧ decodeCommand d = .nop) ∨ (d.toNat = 1 ∧ decodeCommand d = .init) ∨
    (d.toNat = 2 ∧ decodeCommand d = .enc) ∨ (d.toNat = 3 ∧ decodeCommand d = .dec) := by
  obtain ⟨v, hv, rfl⟩ : ∃ v < 4, d = BitVec.ofNat 32 v := ⟨d.toNat, h, by simp⟩
  interval_cases v <;> decide

/-- An idle engine completes an illegal word in the step of its acceptance (R85, R148). -/
theorem exec_illegal_idle (rsv : BitVec 28) (op : BitVec 4) {s : State} (h : s.phase = .idle) :
    exec (.illegal rsv op) s = .next { s with err := 5, lastop := op } :=
  acceptCommand_idle (fun s => { s with err := ErrCode.illegalCommand.code, lastop := op }) h

/-- Settles O3: the two fields are illegal exactly from word 4 upwards, and the decoder tells the words below apart. -/
theorem everyWordIsACommandOrIllegal : Obligations.EveryWordIsACommandOrIllegal := by
  intro d
  rw [fields_illegal_iff]
  constructor
  · intro hd
    exact ⟨rsvField d, opField d, decodeCommand_of_four_le hd, rsvField_toNat d, opField_toNat d,
      fun _ hidle => exec_illegal_idle _ _ hidle⟩
  · intro hd
    exact decodeCommand_of_lt_four (Nat.lt_of_not_le hd)

/-! ## Words that no write changes (R49, R52) -/

/-- A write to a word outside the operand registers changes nothing, whether the engine is busy or idle. -/
theorem busWrite_of_not_operand {wa : WordIndex} (h : wa.toNat < 2 ∨ wa.toNat = 7 ∨ 19 < wa.toNat) (d : BusWord)
    (s : State) : busWrite wa d s = s := by
  by_cases hidle : s.phase = .idle
  · rw [busWrite_idle wa d hidle, writeRegister]
    split <;> try omega
    rfl
  · exact busWrite_busy wa d hidle

/-! ## `STATUS` and `CFGINFO` (R71, R73) -/

@[simp] theorem busRead_regStatus (s : State) : busRead s Reg.status = statusWord s := rfl
@[simp] theorem busRead_regCfginfo (s : State) : busRead s Reg.cfginfo = cfginfoWord s := rfl

theorem bit_toNat (p : Path) : p.bit.toNat = if p = .large then 1 else 0 := by
  cases p <;> rfl

theorem busy_toNat (s : State) : s.busy.toNat = if s.phase = .idle then 0 else 1 := by
  by_cases h : s.phase = .idle
  · rw [(not_busy_iff s).mpr h, if_pos h, Bool.toNat_false]
  · rw [(busy_iff s).mpr h, if_neg h, Bool.toNat_true]

/-- `STATUS` as the sum of its fields, each weighed by where it begins (R71). -/
theorem statusWord_toNat (s : State) :
    (statusWord s).toNat =
      s.busy.toNat + 2 * s.cfgValid.toNat + 4 * s.path.bit.toNat + 16 * s.lastop.toNat + 256 * s.err.toNat := by
  simp only [statusWord, append_toNat, Config.codeW, BitVec.toNat_ofBool, BitVec.toNat_ofNat]
  omega

/-- `CFGINFO` as the sum of its fields, each weighed by where it begins (R73). -/
theorem cfginfoWord_toNat (s : State) :
    (cfginfoWord s).toNat =
      s.pw0.toNat + 2 ^ 8 * s.pw1.toNat + 2 ^ 16 * s.aWidth.toNat + 2 ^ 24 * s.aKeylen.toNat := by
  simp only [cfginfoWord, append_toNat, Config.widthW, BitVec.toNat_ofNat]
  omega

/-- Settles O15: the word is the sum of its fields, and its number lies outside the operand registers. -/
theorem statusWordLayout : Obligations.StatusWordLayout := by
  intro s
  constructor
  · have hvalid : s.cfgValid.toNat = if s.cfgValid = true then 1 else 0 := by cases s.cfgValid <;> rfl
    rw [busRead_regStatus, statusWord_toNat, busy_toNat, bit_toNat, hvalid]
  · exact fun d => busWrite_of_not_operand (by decide) d s

/-- Settles O16: the word is the sum of its fields, and its number lies outside the operand registers. -/
theorem cfginfoWordLayout : Obligations.CfginfoWordLayout := by
  intro s
  constructor
  · rw [busRead_regCfginfo, cfginfoWord_toNat]
  · exact fun d => busWrite_of_not_operand (by decide) d s

end Sys2Proof.Machine
end

section
/-! The acceptance of a command word by an idle engine: `NOP`, the illegal words, and the start of `INIT`, `ENC` and
`DEC` (R83 to R88). -/

namespace Sys2Proof.Machine

/-! ## The meaning of each command (R84, R86, R87, R88) -/

/-- `NOP` leaves every state as it is: an idle engine takes it without an effect, a busy one drops it. -/
theorem exec_nop (s : State) : exec .nop s = .next s := by
  obtain ⟨_, heffect⟩ | ⟨_, hdropped⟩ := acceptCommand_cases (fun s => s) s
  · exact heffect
  · exact hdropped

theorem exec_init_idle {s : State} (h : s.phase = .idle) : exec .init s = .next { s with phase := .iKeychk } :=
  acceptCommand_idle (fun s => { s with phase := .iKeychk }) h

theorem exec_enc_idle {s : State} (h : s.phase = .idle) :
    exec .enc s = .next { s with dir := .forward, phase := .xCheck } :=
  acceptCommand_idle (fun s => { s with dir := .forward, phase := .xCheck }) h

theorem exec_dec_idle {s : State} (h : s.phase = .idle) :
    exec .dec s = .next { s with dir := .inverse, phase := .xCheck } :=
  acceptCommand_idle (fun s => { s with dir := .inverse, phase := .xCheck }) h

/-! ## The illegal words (R85) -/

/-- The opcode recorded by an illegal word, `d[3:0]`, is the word truncated to four bits. -/
theorem opField_eq_ofNat (d : BusWord) : opField d = BitVec.ofNat 4 d.toNat :=
  BitVec.eq_of_toNat_eq (by rw [opField_toNat, BitVec.toNat_ofNat])

/-- An idle engine answers every word from 4 upwards by recording `IllegalCommand` and the word's opcode. -/
theorem exec_decodeCommand_of_four_le {s : State} {d : BusWord} (hidle : s.phase = .idle) (hd : 4 ≤ d.toNat) :
    exec (decodeCommand d) s = .next { s with err := 5, lastop := BitVec.ofNat 4 d.toNat } := by
  rw [decodeCommand_of_four_le hd, exec_illegal_idle _ _ hidle, opField_eq_ofNat]

/-- `STATUS` after an illegal word on an idle engine that is not configured: only `PATH` is left of the old state. -/
theorem busRead_status_of_illegal {s : State} (hidle : s.phase = .idle) (hinvalid : s.cfgValid = false)
    (op : BitVec 4) :
    (busRead { s with err := 5, lastop := op } Reg.status).toNat =
      0x500 + 16 * op.toNat + if s.path = .large then 4 else 0 := by
  have herr : (5 : BitVec Config.codeW).toNat = 5 := rfl
  rw [(statusWordLayout _).1, if_pos hidle, hinvalid, herr]
  cases s.path <;> simp <;> omega

/-! ## `BUSY` (R71, R86) -/

/-- Bit 0 of `STATUS` is `BUSY`: every other field of the word weighs an even number. -/
theorem status_mod_two (s : State) : (busRead s Reg.status).toNat % 2 = if s.phase = .idle then 0 else 1 := by
  have hle : s.busy.toNat ≤ 1 := Bool.toNat_le s.busy
  rw [busRead_regStatus, statusWord_toNat, ← busy_toNat]
  omega

/-! ## The statements -/

/-- Settles O19: word 0 decodes to `NOP`, which has no effect. -/
theorem nopChangesNothing : Obligations.NopChangesNothing :=
  ⟨by decide, exec_nop⟩

/-- Settles O20: the words of R70 are those from 4 upwards; the corner cases and the example are three of them. -/
theorem illegalCommandRecordsItsOpcode : Obligations.IllegalCommandRecordsItsOpcode := by
  constructor
  · intro s d hidle hfields
    exact exec_decodeCommand_of_four_le hidle ((fields_illegal_iff d.toNat).mp hfields)
  · intro s hidle
    refine ⟨exec_decodeCommand_of_four_le hidle (by decide), exec_decodeCommand_of_four_le hidle (by decide),
      _, exec_decodeCommand_of_four_le hidle (by decide), fun hinvalid => ?_⟩
    exact busRead_status_of_illegal hidle hinvalid 7

/-- Settles O21: word 1 decodes to `INIT`, its effect is the new phase, and `BUSY` is bit 0 of `STATUS`. -/
theorem initIsAccepted : Obligations.InitIsAccepted := by
  refine ⟨by decide, fun _ hidle => exec_init_idle hidle, fun s hbusy => ?_⟩
  rw [status_mod_two, if_neg hbusy]

/-- Settles O22: word 2 decodes to `ENC`, whose effect on an idle engine is the direction and the phase. -/
theorem encIsAccepted : Obligations.EncIsAccepted :=
  ⟨by decide, fun _ hidle => exec_enc_idle hidle⟩

/-- Settles O23: word 3 decodes to `DEC`, whose effect on an idle engine is the direction and the phase. -/
theorem decIsAccepted : Obligations.DecIsAccepted :=
  ⟨by decide, fun _ hidle => exec_dec_idle hidle⟩

end Sys2Proof.Machine
end

section
/-! The parameter checks and digit widths at the start of `INIT` (R92 to R94), and the split of a message into work
values (R103). -/

namespace Sys2Proof.Machine

/-! ## Split and join (R103, R116) -/

/-- Below the block size the quotient is already below `MOD[1]`, so the split's second reduction does nothing. -/
theorem splitMessage_of_lt {c : Cfg} (h0 : 1 ≤ c.mod0) (h1 : 1 ≤ c.mod1) {m : Nat} (hm : m < c.blksz) :
    splitMessage c m = ⟨m % c.mod0, m / c.mod0⟩ := by
  have hquot : m / c.mod0 < c.mod1 := Nat.div_lt_of_lt_mul hm
  rw [splitMessage, natMod_eq h0, natMod_eq h1, natDiv_eq h0, Nat.mod_eq_of_lt hquot]

theorem splitMessage_lo_lt {c : Cfg} (h0 : 1 ≤ c.mod0) (m : Nat) : (splitMessage c m).lo < c.mod0 :=
  natMod_lt h0

theorem splitMessage_hi_lt {c : Cfg} (h1 : 1 ≤ c.mod1) (m : Nat) : (splitMessage c m).hi < c.mod1 :=
  natMod_lt h1

theorem joinPair_mod {c : Cfg} {p : Pair} (hlo : p.lo < c.mod0) : joinPair c p % c.mod0 = p.lo := by
  rw [joinPair, Nat.mul_add_mod', Nat.mod_eq_of_lt hlo]

theorem joinPair_div {c : Cfg} {p : Pair} (hlo : p.lo < c.mod0) : joinPair c p / c.mod0 = p.hi := by
  rw [joinPair, Nat.add_comm, Nat.add_mul_div_right _ _ (Nat.zero_lt_of_lt hlo), Nat.div_eq_of_lt hlo, Nat.zero_add]

theorem joinPair_lt_blksz {c : Cfg} {p : Pair} (hlo : p.lo < c.mod0) (hhi : p.hi < c.mod1) :
    joinPair c p < c.blksz := by
  have hquot : joinPair c p / c.mod0 < c.mod1 := by rwa [joinPair_div hlo]
  rw [Cfg.blksz, Nat.mul_comm]
  exact (Nat.div_lt_iff_lt_mul (Nat.zero_lt_of_lt hlo)).mp hquot

theorem joinPair_splitMessage {c : Cfg} (h0 : 1 ≤ c.mod0) (h1 : 1 ≤ c.mod1) {m : Nat} (hm : m < c.blksz) :
    joinPair c (splitMessage c m) = m := by
  rw [splitMessage_of_lt h0 h1 hm]
  exact Nat.div_add_mod' m c.mod0

theorem splitMessage_joinPair {c : Cfg} {p : Pair} (hlo : p.lo < c.mod0) (hhi : p.hi < c.mod1) :
    splitMessage c (joinPair c p) = p := by
  rw [splitMessage_of_lt (Nat.zero_lt_of_lt hlo) (Nat.zero_lt_of_lt hhi) (joinPair_lt_blksz hlo hhi), joinPair_mod hlo,
    joinPair_div hlo]

/-- Settles O44: a message is its quotient and remainder by `MOD[0]`, and the block size bounds the quotient. -/
theorem splitAndJoinAreInverse : Obligations.SplitAndJoinAreInverse := by
  intro c h0 h1
  constructor
  · exact fun m hm => ⟨splitMessage_lo_lt h0 m, splitMessage_hi_lt h1 m, joinPair_splitMessage h0 h1 hm⟩
  · exact fun p hlo hhi => ⟨joinPair_lt_blksz hlo hhi, splitMessage_joinPair hlo hhi⟩

/-! ## The checks of `INIT` (R92, R93) -/

/-- `raise E` in an `I_*` phase: the error, the opcode of `INIT`, and no engine (R89). -/
theorem raiseError_init {s : State} {e : ErrCode} (h : s.phase.ofInit = true) (he : e ≠ .ok) :
    raiseError e s = .next { s with err := e.code, lastop := 1, cfgValid := false, phase := .idle } := by
  rw [raiseError, finish_init_error h he]

/-- Membership in `KEYLENS`, on the register instead of its value. -/
theorem keylen_mem_keylens_iff (n : BitVec Config.keylenW) :
    n.toNat ∈ Config.keylens ↔ n = 16 ∨ n = 24 ∨ n = 32 := by
  simp [Config.keylens, Config.keylenW, ← BitVec.toNat_inj]

theorem exec_iKeychk_of_mem {s : State} (h : s.keylen.toNat ∈ Config.keylens) :
    exec .iKeychk s = .next { s with phase := .iParchk } :=
  if_pos h

theorem exec_iKeychk_of_not_mem {s : State} (h : s.keylen.toNat ∉ Config.keylens) :
    exec .iKeychk s = raiseError .invalidKeyLength s :=
  if_neg h

theorem exec_iParchk_of_invalid {s : State} (h : s.radix.toNat < 2 ∨ s.width.toNat < 1 ∨ s.rounds.toNat < 1) :
    exec .iParchk s = raiseError .invalidParameters s :=
  if_pos h

theorem exec_iParchk_of_valid {s : State} (h : ¬(s.radix.toNat < 2 ∨ s.width.toNat < 1 ∨ s.rounds.toNat < 1)) :
    exec .iParchk s = .next { s with phase := .iWidths } :=
  if_neg h

/-- Settles O24: `KEYLENS` holds the three lengths, and every other length raises the error. -/
theorem keyLengthIsChecked : Obligations.KeyLengthIsChecked := by
  intro s hphase
  rw [← keylen_mem_keylens_iff]
  have hinit : s.phase.ofInit = true := by rw [hphase]; rfl
  constructor
  · exact exec_iKeychk_of_mem
  · intro hlen
    exact ⟨_, (exec_iKeychk_of_not_mem hlen).trans (raiseError_init hinit (by decide)), .refl _⟩

/-- Settles O25: the two premises are each other's negation, and the failing one raises the error. -/
theorem parametersAreChecked : Obligations.ParametersAreChecked := by
  intro s hphase
  have hinit : s.phase.ofInit = true := by rw [hphase]; rfl
  constructor
  · rintro ⟨hradix, hwidth, hrounds⟩
    exact exec_iParchk_of_valid (by omega)
  · intro hinvalid
    exact ⟨_, (exec_iParchk_of_invalid hinvalid).trans (raiseError_init hinit (by decide)), .refl _⟩

/-! ## The digit widths (R94) -/

/-- The ceiling of half a width of 8 bits. -/
theorem halfUp_le (w : BitVec Config.widthW) : halfUp w.toNat ≤ 128 := by
  have hw : w.toNat < 2 ^ 8 := w.isLt
  rw [halfUp]
  omega

/-- The floor of half a width of 8 bits. -/
theorem halfDown_le (w : BitVec Config.widthW) : halfDown w.toNat ≤ 127 := by
  have hw : w.toNat < 2 ^ 8 := w.isLt
  rw [halfDown]
  omega

theorem one_le_halfUp {w : Nat} (h : 1 ≤ w) : 1 ≤ halfUp w := by
  rw [halfUp]
  omega

/-- Both halves fit their registers, so `I_WIDTHS` stores them exactly. -/
theorem fit_halfUp_toNat (w : BitVec Config.widthW) : (fit Config.widthW (halfUp w.toNat)).toNat = halfUp w.toNat :=
  fit_toNat ((halfUp_le w).trans_lt (by decide))

theorem fit_halfDown_toNat (w : BitVec Config.widthW) :
    (fit Config.widthW (halfDown w.toNat)).toNat = halfDown w.toNat :=
  fit_toNat ((halfDown_le w).trans_lt (by decide))

theorem exec_iWidths (s : State) :
    exec .iWidths s = .next { s with
      tPw0 := fit Config.widthW (halfUp s.width.toNat), tPw1 := fit Config.widthW (halfDown s.width.toNat),
      acc := 1, cnt := 0, phase := .iExp } := rfl

/-- Settles O26: the stored halves are exact, and their sum, difference and bounds are those of the halves. -/
theorem digitWidthsAreHalves : Obligations.DigitWidthsAreHalves := by
  intro s
  refine ⟨_, exec_iWidths s, rfl, ?_⟩
  rw [fit_halfUp_toNat, fit_halfDown_toNat]
  exact ⟨rfl, rfl, halfUp_add_halfDown _, halfUp_eq_halfDown_or_succ _, halfUp_le _, halfDown_le _, one_le_halfUp⟩

end Sys2Proof.Machine
end

section
/-! The cipher wrapper: the bytes of the block that `R_PACK` lays out, and the integer that `R_UNPACK` takes from the
block the cipher answers (R105, R108). -/

namespace Sys2Proof.Machine

/-! ## The input block (R77, R105) -/

theorem getElem_packBlock_of_lt (r w : Nat) {i : Nat} (h : i < 8) :
    (packBlock r w)[i]'(h.trans (by decide)) = byteOf r i := by
  rw [← getElem_leBytes 8 r i h]
  exact Vector.getElem_append_left h

theorem getElem_packBlock_of_le (r w : Nat) {i : Nat} (hle : 8 ≤ i) (h : i < 16) :
    (packBlock r w)[i] = byteOf w (i - 8) := by
  rw [← getElem_leBytes 8 w (i - 8) (by omega)]
  exact Vector.getElem_append_right h hle

/-- A number of four bytes has no byte beyond the fourth. -/
theorem byteOf_eq_zero {v i : Nat} (hv : v < 2 ^ 32) (hi : 4 ≤ i) : byteOf v i = 0 := by
  have hpow : v < 2 ^ (8 * i) := hv.trans_le (Nat.pow_le_pow_right (by decide) (by omega))
  rw [byteOf, Nat.div_eq_of_lt hpow]
  rfl

theorem exec_rPack (s : State) :
    exec .rPack s =
      .next { s with ptbuf := packBlock s.rnd.toNat (s.work s.fromIdx).toNat, phase := .rCiph } := rfl

/-- Settles O33: each half of the block holds the bytes of its register, and `RND` has only four of them. -/
theorem packLaysOutTheBlock : Obligations.PackLaysOutTheBlock := by
  intro s
  have hrnd : s.rnd.toNat < 2 ^ 32 := s.rnd.isLt
  refine ⟨_, exec_rPack s, rfl, fun k => ?_, fun k hle hlt => ?_, ?_⟩
  · rw [Fin.getElem_fin]
    split
    next hlow =>
      rw [getElem_packBlock_of_lt _ _ hlow]
      exact byteOf_toNat _ _
    next hhigh =>
      rw [getElem_packBlock_of_le _ _ (Nat.le_of_not_lt hhigh) k.isLt]
      exact byteOf_toNat _ _
  · rw [Fin.getElem_fin, getElem_packBlock_of_lt _ _ hlt, byteOf_eq_zero hrnd hle]
  · exact fromLE_packBlock (hrnd.trans (by decide)) (s.work s.fromIdx).isLt

/-! ## The output block (R78, R108) -/

theorem exec_rUnpack (s : State) :
    exec .rUnpack s = .next { s with raw := fit Config.rawW (unpackBlock s.path s.ctbuf), phase := .rReduce } := rfl

/-- `RAW` is as wide as a block, so `R_UNPACK` stores the integer exactly on both paths. -/
theorem fit_unpackBlock_toNat (p : Path) (ct : Block) :
    (fit Config.rawW (unpackBlock p ct)).toNat = unpackBlock p ct :=
  fit_toNat (unpackBlock_lt p ct)

/-- The two paths agree on the low 64 bits. -/
theorem unpackBlock_mod (p : Path) (ct : Block) : unpackBlock p ct % 2 ^ 64 = fromLE ct.toList % 2 ^ 64 := by
  cases p with
  | small =>
    calc unpackBlock .small ct % 2 ^ 64
        = (unpackBlock .small ct + 2 ^ 64 * fromLE (ct.toList.drop 8)) % 2 ^ 64 := (Nat.add_mul_mod_self_left ..).symm
      _ = unpackBlock .large ct % 2 ^ 64 := by rw [unpackBlock_large]
  | large => rfl

/-- Settles O35: the stored integer is the whole `unpackBlock`, whose large case is the small one plus the high half. -/
theorem unpackTakesLowOrAllBytes : Obligations.UnpackTakesLowOrAllBytes := by
  intro s
  refine ⟨_, exec_rUnpack s, rfl, ?_⟩
  rw [fit_unpackBlock_toNat]
  refine ⟨fun hsmall => ?_, fun hlarge => ?_, fun p _ => unpackBlock_mod s.path s.ctbuf⟩
  · rw [hsmall]
    exact ⟨rfl, unpackBlock_small_lt s.ctbuf⟩
  · rw [hlarge]
    exact unpackBlock_large s.ctbuf

end Sys2Proof.Machine
end

section
/-! The reduction of the round function: the remainder that `R_REDUCE` takes of the raw integer (R12, R112). -/

namespace Sys2Proof.Machine

theorem exec_rReduce (s : State) :
    exec .rReduce s =
      .next { s with
        delta := fit Config.workW (natMod s.raw.toNat (s.modulus s.toIdx).toNat), phase := .rMix } := rfl

/-- A remainder by a modulus of at most `2^64` fits a work register, so it is stored exactly. The bound is not strict,
since the remainder stays below the modulus (R113). -/
theorem fit_natMod_toNat {a m : Nat} (hpos : 1 ≤ m) (hle : m ≤ 2 ^ 64) :
    (fit Config.workW (natMod a m)).toNat = natMod a m :=
  fit_toNat ((natMod_lt hpos).trans_le hle)

/-- Settles O36: `DELTA` holds `natMod` of `RAW` exactly, which for a positive modulus is the remainder. -/
theorem reduceTakesTheRemainder : Obligations.ReduceTakesTheRemainder := by
  intro s hpos hle
  refine ⟨_, exec_rReduce s, rfl, ?_⟩
  rw [fit_natMod_toNat hpos hle]
  exact ⟨natMod_eq hpos, natMod_lt hpos⟩

end Sys2Proof.Machine
end

section
/-! The Feistel pass: the checks before it, forward mixing, and the join that completes it (R117, R121, R122). -/

namespace Sys2Proof.Machine

/-! ## The checks before a pass (R117) -/

/-- `raise E` in a phase of a pass: the error and the opcode of the direction; the engine stays (R89). -/
theorem raiseError_pass {s : State} (e : ErrCode) (h : s.phase.ofInit = false) :
    raiseError e s =
      .next { s with err := e.code, lastop := if s.dir = .forward then 2 else 3, phase := .idle } := by
  rw [raiseError, finish_pass h, opcode_eq]

theorem exec_xCheck_of_no_engine {s : State} (h : s.cfgValid = false) :
    exec .xCheck s = raiseError .notConfigured s :=
  if_pos h

theorem exec_xCheck_of_engine {s : State} (h : s.cfgValid = true) :
    exec .xCheck s =
      if s.blksz.toNat ≤ s.din.toNat then raiseError .outOfRange s else .next { s with phase := .xSplit } :=
  if_neg (by rw [h]; decide)

/-- Settles O30: the two checks of R117 in their order, each failing one raising its error in a phase of a pass. -/
theorem engineAndRangeAreChecked : Obligations.EngineAndRangeAreChecked := by
  intro s hphase
  have hpass : s.phase.ofInit = false := by rw [hphase]; rfl
  refine ⟨fun hnone => ?_, fun hvalid hrange => ?_, fun hvalid hrange => ?_⟩
  · exact ⟨_, (exec_xCheck_of_no_engine hnone).trans (raiseError_pass .notConfigured hpass), .refl _⟩
  · rw [exec_xCheck_of_engine hvalid, if_pos hrange]
    exact ⟨_, raiseError_pass .outOfRange hpass, .refl _⟩
  · rw [exec_xCheck_of_engine hvalid, if_neg (Nat.not_le_of_lt hrange)]

/-! ## Mixing (R121, R129) -/

/-- What `R_MIX` stores in `WORK[TO]`, in either direction. -/
def mixedWork (s : State) : BitVec Config.workW :=
  fit Config.workW (mixValue s.dir (s.work s.toIdx).toNat s.delta.toNat (s.modulus s.toIdx).toNat)

/-- `R_MIX` in one equation for both directions: only `RND` and `PHASE` depend on whether the round is the last. -/
theorem exec_rMix (s : State) :
    exec .rMix s =
      .next { s.setWork s.toIdx (mixedWork s) with
        fromIdx := s.toIdx, toIdx := s.fromIdx
        rnd := if lastRound s then s.rnd else nextRound s
        phase := if lastRound s then .xJoin else .rPack } := by
  cases hlast : lastRound s <;> simp [exec, execRMix, mixedWork, hlast]

/-- `WORK[i] <- v` changes nothing but the work values. -/
theorem setWork_frame (s : State) (i : Half) (v : BitVec Config.workW) :
    s.setWork i v = { s with work0 := (s.setWork i v).work0, work1 := (s.setWork i v).work1 } := by
  cases i <;> rfl

/-- Forward, the sum is reduced below `MOD[TO]`, so it fits the work register (R121). -/
theorem mixedWork_forward_toNat {s : State} (hdir : s.dir = .forward) (hpos : 1 ≤ (s.modulus s.toIdx).toNat)
    (hle : (s.modulus s.toIdx).toNat ≤ 2 ^ 64) :
    (mixedWork s).toNat = ((s.work s.toIdx).toNat + s.delta.toNat) % (s.modulus s.toIdx).toNat := by
  rw [mixedWork, hdir, mixValue, fit_natMod_toNat hpos hle, natMod_eq hpos]

/-- The reduction of a sum of two remainders takes the modulus away at most once. -/
theorem add_mod_of_modulus_le {w d m : Nat} (hw : w < m) (hd : d < m) (h : m ≤ w + d) : (w + d) % m = w + d - m := by
  rw [Nat.mod_eq_sub_mod h, Nat.mod_eq_of_lt (by omega)]

theorem lastRound_forward {s : State} (hdir : s.dir = .forward) :
    lastRound s = true ↔ s.rnd.toNat + 1 = s.aRounds.toNat := by
  rw [lastRound, hdir, decide_eq_true_iff]

/-- Counting up stays within `aROUNDS`, so it does not overflow. -/
theorem nextRound_forward_toNat {s : State} (hdir : s.dir = .forward) (h : s.rnd.toNat < s.aRounds.toNat) :
    (nextRound s).toNat = s.rnd.toNat + 1 := by
  rw [nextRound, hdir, fit_toNat (Nat.lt_of_le_of_lt h s.aRounds.isLt)]

/-- Settles O37: `WORK[TO]` holds the reduced sum exactly, and the round is counted unless it is the last. -/
theorem mixAddsForward : Obligations.MixAddsForward := by
  intro s hdir hwork hdelta hle hrnd
  have hsum := mixedWork_forward_toNat hdir (Nat.zero_lt_of_lt hwork) hle
  have hto := congrArg BitVec.toNat (work_setWork_same s s.toIdx (mixedWork s))
  refine ⟨_, exec_rMix s, by rw [setWork_frame], work_setWork_other s s.toIdx _, hto.trans hsum, fun hlt => ?_,
    fun hge => ?_, fun hlast => ?_, fun hmore => ?_⟩
  · exact hto.trans (hsum.trans (Nat.mod_eq_of_lt hlt))
  · exact hto.trans (hsum.trans (add_mod_of_modulus_le hwork hdelta hge))
  · have h := (lastRound_forward hdir).mpr hlast
    exact ⟨if_pos h, if_pos h⟩
  · have h := mt (lastRound_forward hdir).mp hmore
    exact ⟨if_neg h, (congrArg BitVec.toNat (if_neg h)).trans (nextRound_forward_toNat hdir hrnd)⟩

/-! ## The join (R122) -/

/-- `X_JOIN` stores the join of the work values and completes the pass in one step. -/
theorem exec_xJoin {s : State} (h : s.phase.ofInit = false) :
    exec .xJoin s =
      .next { s with
        dout := fit Config.msgW (joinPair s.cfg ⟨s.work0.toNat, s.work1.toNat⟩)
        err := 0, lastop := if s.dir = .forward then 2 else 3, phase := .idle } := by
  rw [← opcode_eq]
  exact congrArg Host.Outcome.next (finish_pass h)

/-- Settles O39: the join is below the block size, which is at most `2^128`, so `DOUT` holds it exactly. -/
theorem joinWritesTheResult : Obligations.JoinWritesTheResult := by
  intro s hphase hlo hhi hblk
  have hpass : s.phase.ofInit = false := by rw [hphase]; rfl
  have hlt : joinPair s.cfg ⟨s.work0.toNat, s.work1.toNat⟩ < s.mod0.toNat * s.mod1.toNat := joinPair_lt_blksz hlo hhi
  refine ⟨_, exec_xJoin hpass, .refl _, ?_⟩
  rw [fit_toNat (hlt.trans_le hblk)]
  exact ⟨rfl, hlt⟩

end Sys2Proof.Machine
end


section
/-! The inverse Feistel pass: the split that starts it at the last round, and mixing by subtraction (R128, R129). -/

namespace Sys2Proof.Machine

/-! ## The split (R128) -/

theorem ofParity_of_even {n : Nat} (h : n % 2 = 0) : Half.ofParity n = .lo :=
  if_pos h

theorem ofParity_of_odd {n : Nat} (h : n % 2 = 1) : Half.ofParity n = .hi :=
  if_neg (by omega)

theorem exec_xSplit_inverse {s : State} (hdir : s.dir = .inverse) :
    exec .xSplit s =
      .next { s with
        work0 := fit Config.workW (natMod s.din.toNat s.mod0.toNat)
        work1 := fit Config.workW (natMod (natDiv s.din.toNat s.mod0.toNat) s.mod1.toNat)
        rnd := fit Config.roundsW (exactSub s.aRounds.toNat 1)
        fromIdx := Half.ofParity (exactSub s.aRounds.toNat 1)
        toIdx := Half.ofParity s.aRounds.toNat
        phase := .rPack } := by
  simp only [exec, execXSplit, hdir]

/-- The last round number is below `aROUNDS`, so `RND` holds it exactly. -/
theorem fit_pred_toNat (r : BitVec Config.roundsW) : (fit Config.roundsW (r.toNat - 1)).toNat = r.toNat - 1 :=
  fit_toNat ((Nat.sub_le _ _).trans_lt r.isLt)

/-- Settles O32: the work registers hold both remainders exactly, and `FROM` is the index opposite to `TO`, which is the
parity of `aROUNDS`. -/
theorem splitStartsTheInversePass : Obligations.SplitStartsTheInversePass := by
  intro s hpos0 hle0 hpos1 hle1 hdir hrounds
  refine ⟨_, exec_xSplit_inverse hdir, rfl, ?_⟩
  rw [fit_natMod_toNat hpos0 hle0, fit_natMod_toNat hpos1 hle1, natMod_eq hpos0, natMod_eq hpos1, natDiv_eq hpos0,
    exactSub_eq hrounds, fit_pred_toNat, ofParity_pred hrounds]
  refine ⟨rfl, rfl, rfl, fun hodd => ?_, fun heven => ?_⟩
  · rw [ofParity_of_odd hodd]
    exact ⟨rfl, rfl⟩
  · rw [ofParity_of_even heven]
    exact ⟨rfl, rfl⟩

/-! ## Inverse mixing (R129) -/

/-- Inverse, the difference modulo `MOD[TO]` is below it, so it fits the work register (R129). -/
theorem mixedWork_inverse_toNat {s : State} (hdir : s.dir = .inverse)
    (hwork : (s.work s.toIdx).toNat < (s.modulus s.toIdx).toNat)
    (hdelta : s.delta.toNat < (s.modulus s.toIdx).toNat) (hle : (s.modulus s.toIdx).toNat ≤ 2 ^ 64) :
    (mixedWork s).toNat = modSub (s.work s.toIdx).toNat s.delta.toNat (s.modulus s.toIdx).toNat := by
  rw [mixedWork, hdir, mixValue, fit_toNat ((modSub_lt hwork hdelta).trans_le hle)]

theorem lastRound_inverse {s : State} (hdir : s.dir = .inverse) : lastRound s = true ↔ s.rnd.toNat = 0 := by
  rw [lastRound, hdir, decide_eq_true_iff]

/-- Counting down from a round other than 0 does not go below zero. -/
theorem nextRound_inverse_toNat {s : State} (hdir : s.dir = .inverse) (h : s.rnd.toNat ≠ 0) :
    (nextRound s).toNat = s.rnd.toNat - 1 := by
  rw [nextRound, hdir, exactSub_eq (Nat.one_le_iff_ne_zero.mpr h), fit_pred_toNat]

/-- Settles O38: `WORK[TO]` holds the difference modulo `MOD[TO]` exactly, which borrows the modulus only below zero, and
the round is counted down unless it is round 0. -/
theorem mixSubtractsInverse : Obligations.MixSubtractsInverse := by
  intro s hdir hwork hdelta hle
  have hto := (congrArg BitVec.toNat (work_setWork_same s s.toIdx (mixedWork s))).trans
    (mixedWork_inverse_toNat hdir hwork hdelta hle)
  refine ⟨_, exec_rMix s, by rw [setWork_frame], work_setWork_other s s.toIdx _, fun hge => ?_, fun hlt => ?_,
    fun hzero => ?_, fun hmore => ?_⟩
  · exact hto.trans (modSub_of_le hwork hge)
  · exact hto.trans (modSub_of_lt hdelta hlt)
  · have h := (lastRound_inverse hdir).mpr hzero
    exact ⟨if_pos h, if_pos h⟩
  · have h := mt (lastRound_inverse hdir).mp hmore
    exact ⟨if_neg h, (congrArg BitVec.toNat (if_neg h)).trans (nextRound_inverse_toNat hdir hmore)⟩

end Sys2Proof.Machine
end

section
/-! The permutation: every round is undone by the round of the other direction, so the two passes undo each other on
the pairs in range, and split and join carry that over to `[0, BLKSZ)` (R130, R133, R136, R137). -/

namespace Sys2Proof.Machine

/-! ## Mixing (R121, R129) -/

theorem mixValue_lt (dir : Dir) {w d m : Nat} (hw : w < m) (hd : d < m) : mixValue dir w d m < m := by
  cases dir with
  | forward => exact natMod_lt (Nat.zero_lt_of_lt hw)
  | inverse => exact modSub_lt hw hd

/-- Mixing in one direction and then in the other with the same round output gives the value back. -/
theorem mixValue_undo {dir dir' : Dir} (hne : dir' ≠ dir) {w d m : Nat} (hw : w < m) (hd : d < m) :
    mixValue dir' (mixValue dir w d m) d m = w := by
  have hpos : 1 ≤ m := Nat.zero_lt_of_lt hw
  cases dir <;> cases dir'
  · contradiction
  · exact (congrArg (modSub · d m) (natMod_eq hpos)).trans (modSub_add hw hd)
  · exact (natMod_eq hpos).trans (add_modSub hw hd)
  · contradiction

/-! ## One round (R130) -/

/-- The pairs of work values with `w[i] < MOD[i]` (R133). -/
def Pair.InRange (p : Pair) (c : Cfg) : Prop := ∀ i, p.get i < c.modulus i

theorem Pair.inRange_iff {p : Pair} {c : Cfg} : p.InRange c ↔ p.lo < c.mod0 ∧ p.hi < c.mod1 :=
  ⟨fun h => ⟨h .lo, h .hi⟩, fun ⟨hlo, hhi⟩ i => by cases i <;> assumption⟩

theorem Pair.InRange.put {p : Pair} {c : Cfg} (h : p.InRange c) {i : Half} {v : Nat} (hv : v < c.modulus i) :
    (p.put i v).InRange c := by
  intro j
  rw [Pair.get_put]
  split
  next heq => rwa [heq]
  next => exact h j

/-- A round in either direction: `F_r` forward, `G_r` inverse. -/
def passRound (cipher : Cipher) (c : Cfg) (dir : Dir) (r : Nat) (p : Pair) : Pair :=
  let f := Half.ofParity r
  let t := f.other
  p.put t (mixValue dir (p.get t) (roundOutput cipher c.key c.path (p.get f) r (c.modulus t)) (c.modulus t))

section
variable (cipher : Cipher) {c : Cfg}

theorem passRound_forward (r : Nat) (p : Pair) : passRound cipher c .forward r p = forwardRound cipher c r p := rfl

theorem passRound_inverse (r : Nat) (p : Pair) : passRound cipher c .inverse r p = inverseRound cipher c r p := rfl

/-- A round leaves the half it reads as it is (R135). -/
theorem passRound_get_from (dir : Dir) (r : Nat) (p : Pair) :
    (passRound cipher c dir r p).get (Half.ofParity r) = p.get (Half.ofParity r) := by
  cases dir with
  | forward => exact forwardRound_get_from cipher c r p
  | inverse => exact inverseRound_get_from cipher c r p

theorem passRound_inRange (dir : Dir) (r : Nat) {p : Pair} (hp : p.InRange c) :
    (passRound cipher c dir r p).InRange c :=
  hp.put (mixValue_lt dir (hp _) (roundOutput_lt _ _ _ _ _ (Nat.zero_lt_of_lt (hp _))))

/-- A round is undone by the round of the same number in the other direction: both see the same half, hence the same
round output, whatever the cipher (R130). -/
theorem passRound_undo {dir dir' : Dir} (hne : dir' ≠ dir) (r : Nat) {p : Pair} (hp : p.InRange c) :
    passRound cipher c dir' r (passRound cipher c dir r p) = p := by
  have hto := hp (Half.ofParity r).other
  rw [passRound, passRound_get_from]
  simp only [passRound, Pair.get_put_same, Pair.put_put]
  rw [mixValue_undo hne hto (roundOutput_lt _ _ _ _ _ (Nat.zero_lt_of_lt hto)), Pair.put_get]

/-! ## The pass (R123, R131) -/

theorem forwardPass_inRange (n : Nat) {p : Pair} (hp : p.InRange c) : (forwardPass cipher c n p).InRange c := by
  induction n with
  | zero => exact hp
  | succ n ih => exact passRound_inRange cipher .forward n ih

theorem inversePass_inRange (n : Nat) {p : Pair} (hp : p.InRange c) : (inversePass cipher c n p).InRange c := by
  induction n generalizing p with
  | zero => exact hp
  | succ n ih => exact ih (passRound_inRange cipher .inverse n hp)

theorem inversePass_forwardPass (n : Nat) {p : Pair} (hp : p.InRange c) :
    inversePass cipher c n (forwardPass cipher c n p) = p := by
  induction n with
  | zero => rfl
  | succ n ih =>
    calc inversePass cipher c (n + 1) (forwardPass cipher c (n + 1) p)
        = inversePass cipher c n
            (passRound cipher c .inverse n (passRound cipher c .forward n (forwardPass cipher c n p))) := rfl
      _ = inversePass cipher c n (forwardPass cipher c n p) := by
          rw [passRound_undo cipher (by decide) n (forwardPass_inRange cipher n hp)]
      _ = p := ih

theorem forwardPass_inversePass (n : Nat) {p : Pair} (hp : p.InRange c) :
    forwardPass cipher c n (inversePass cipher c n p) = p := by
  induction n generalizing p with
  | zero => rfl
  | succ n ih =>
    have hround := passRound_inRange cipher .inverse n hp
    calc forwardPass cipher c (n + 1) (inversePass cipher c (n + 1) p)
        = passRound cipher c .forward n
            (forwardPass cipher c n (inversePass cipher c n (passRound cipher c .inverse n p))) := rfl
      _ = passRound cipher c .forward n (passRound cipher c .inverse n p) := by rw [ih hround]
      _ = p := passRound_undo cipher (by decide) n hp

end

/-- All rounds of a pass in either direction. -/
def passPair (cipher : Cipher) (c : Cfg) : Dir → Pair → Pair
  | .forward, p => forwardPass cipher c c.rounds p
  | .inverse, p => inversePass cipher c c.rounds p

theorem passValue_eq (cipher : Cipher) (c : Cfg) (dir : Dir) (m : Nat) :
    passValue cipher c dir m = joinPair c (passPair cipher c dir (splitMessage c m)) := by
  cases dir <;> rfl

theorem passPair_inRange (cipher : Cipher) {c : Cfg} (dir : Dir) {p : Pair} (hp : p.InRange c) :
    (passPair cipher c dir p).InRange c := by
  cases dir with
  | forward => exact forwardPass_inRange cipher c.rounds hp
  | inverse => exact inversePass_inRange cipher c.rounds hp

theorem passPair_undo (cipher : Cipher) {c : Cfg} {dir dir' : Dir} (hne : dir' ≠ dir) {p : Pair} (hp : p.InRange c) :
    passPair cipher c dir' (passPair cipher c dir p) = p := by
  cases dir <;> cases dir'
  · contradiction
  · exact inversePass_forwardPass cipher c.rounds hp
  · exact forwardPass_inversePass cipher c.rounds hp
  · contradiction

/-! ## The functions of a message (R136, R137, R139) -/

theorem splitMessage_inRange {c : Cfg} (h0 : 1 ≤ c.mod0) (h1 : 1 ≤ c.mod1) (m : Nat) : (splitMessage c m).InRange c :=
  Pair.inRange_iff.mpr ⟨splitMessage_lo_lt h0 m, splitMessage_hi_lt h1 m⟩

/-- R139: whatever the message, the result of a pass is below the block size. -/
theorem passValue_lt_blksz (cipher : Cipher) {c : Cfg} (h0 : 1 ≤ c.mod0) (h1 : 1 ≤ c.mod1) (dir : Dir) (m : Nat) :
    passValue cipher c dir m < c.blksz := by
  obtain ⟨hlo, hhi⟩ := Pair.inRange_iff.mp (passPair_inRange cipher dir (splitMessage_inRange h0 h1 m))
  rw [passValue_eq]
  exact joinPair_lt_blksz hlo hhi

/-- The pass of the other direction gives the message back. -/
theorem passValue_undo (cipher : Cipher) {c : Cfg} (h0 : 1 ≤ c.mod0) (h1 : 1 ≤ c.mod1) {dir dir' : Dir}
    (hne : dir' ≠ dir) {m : Nat} (hm : m < c.blksz) :
    passValue cipher c dir' (passValue cipher c dir m) = m := by
  have hsplit := splitMessage_inRange h0 h1 m
  obtain ⟨hlo, hhi⟩ := Pair.inRange_iff.mp (passPair_inRange cipher dir hsplit)
  rw [passValue_eq, passValue_eq, splitMessage_joinPair hlo hhi, passPair_undo cipher hne hsplit,
    joinPair_splitMessage h0 h1 hm]

/-- Settles O46: each direction maps the domain into itself and is undone by the other. -/
theorem encryptIsAPermutation : Obligations.EncryptIsAPermutation := by
  intro cipher c h0 h1
  have hmaps (dir : Dir) : Set.MapsTo (passValue cipher c dir) { m | m < c.blksz } { m | m < c.blksz } :=
    fun m _ => passValue_lt_blksz cipher h0 h1 dir m
  have hinv : Set.InvOn (decrypt cipher c) (encrypt cipher c) { m | m < c.blksz } { m | m < c.blksz } :=
    ⟨fun _ hm => passValue_undo cipher h0 h1 (dir := .forward) (dir' := .inverse) (by decide) hm,
      fun _ hm => passValue_undo cipher h0 h1 (dir := .inverse) (dir' := .forward) (by decide) hm⟩
  exact ⟨hinv.bijOn (hmaps .forward) (hmaps .inverse), hinv.symm.bijOn (hmaps .inverse) (hmaps .forward), hinv⟩

end Sys2Proof.Machine
end

section
/-! A whole pass of the machine: five micro-operations make one round of the reference, the rounds make the pass, and
split, pass and join are `ENC` or `DEC` as one function of the state (R116, R127, R142). The host waits meanwhile. -/

namespace Sys2Proof.Machine

/-! ## The sequencer while the host waits (R80, R90) -/

/-- The host has nothing to do before `BUSY` is 0: nothing is pending, or its next transaction is a `WAIT` without a
gap. A step of the sequencer leaves such a list as it is. -/
def HostWaits (h : List HostEvent) : Prop := ∀ e ∈ h.head?, e = { gap := 0, op := .wait }

theorem hostWaits_wait (rest : List HostEvent) : HostWaits ({ gap := 0, op := .wait } :: rest) := by
  intro e he
  exact (Option.some.inj he).symm

theorem HostWaits.countGap_eq {h : List HostEvent} (hw : HostWaits h) : countGap h = h := by
  cases h with
  | nil => rfl
  | cons e rest =>
    rw [hw e rfl]
    rfl

/-- While the host waits, a busy engine's step is its micro-operation on the state as it is. -/
theorem step_microOp {s : State} {i : Instr} (hi : microOp s.phase = some i) (hw : HostWaits s.host) :
    step s = exec i s := by
  have hbusy : s.phase ≠ .idle := by
    intro hidle
    rw [hidle, microOp_idle] at hi
    contradiction
  have hturn : ∀ e ∈ s.host.head?, hostTurn s e = false := by
    intro e he
    rw [Bool.eq_false_iff, Ne, hostTurn_busy e hbusy, hw e he]
    exact fun ⟨_, hop⟩ => hop rfl
  rw [step_sequencer hi hturn, hw.countGap_eq]

/-- A run that begins with a micro-operation. -/
theorem runsTo_microOp {k : Nat} {s t u : State} (i : Instr) (hi : microOp s.phase = some i) (hw : HostWaits s.host)
    (ht : exec i s = .next t) (htu : RunsTo k t u) : RunsTo (k + 1) s u :=
  (runsTo_succ ((step_microOp hi hw).trans ht)).mpr htu

/-! ## What a pass reads of the state -/

/-- The two work registers as the reference's pair. -/
def State.pair (s : State) : Pair := ⟨s.work0.toNat, s.work1.toNat⟩

theorem pair_get (s : State) (i : Half) : s.pair.get i = (s.work i).toNat := by
  cases i <;> rfl

theorem pair_setWork (s : State) (i : Half) (v : BitVec Config.workW) :
    (s.setWork i v).pair = s.pair.put i v.toNat := by
  cases i <;> rfl

/-- The configuration of a pass holds no scratch register. -/
theorem SameButScratch.cfg_eq {s t : State} (h : SameButScratch s t) : s.cfg = t.cfg :=
  have hclear : s.clearScratch.cfg = t.clearScratch.cfg := congrArg State.cfg h
  hclear

theorem SameButScratch.phase_eq {s t : State} (h : SameButScratch s t) : s.phase = t.phase :=
  have hclear : s.clearScratch.phase = t.clearScratch.phase := congrArg State.phase h
  hclear

theorem SameButScratch.host_eq {s t : State} (h : SameButScratch s t) : s.host = t.host :=
  have hclear : s.clearScratch.host = t.clearScratch.host := congrArg State.host h
  hclear

theorem SameButScratch.requests_eq {s t : State} (h : SameButScratch s t) : s.requests = t.requests :=
  have hclear : s.clearScratch.requests = t.clearScratch.requests := congrArg State.requests h
  hclear

theorem SameButScratch.configInv {s t : State} (h : SameButScratch s t) (ht : ConfigInv t) : ConfigInv s :=
  have hclear : ConfigInv s.clearScratch := Eq.mpr (congrArg ConfigInv h) ht
  hclear

/-- Where a state differs in scratch, `PHASE` and the requests alone, it still does after the same change of both. -/
theorem SameButScratch.progress {s t : State} {p : Phase} {rs : List CipherRequest}
    (h : SameButScratch t { s with phase := p, requests := rs }) (p' : Phase) (rs' : List CipherRequest) :
    SameButScratch { t with phase := p', requests := rs' } { s with phase := p', requests := rs' } :=
  congrArg (fun u : State => { u with phase := p', requests := rs' }) h

/-! ## One round (R105 to R112, R121, R129) -/

theorem exec_rCiph (s : State) : exec .rCiph s = .next { cipherRequest s with phase := .rUnpack } := rfl

/-- The state after `R_PACK`, `R_CIPH`, `R_UNPACK` and `R_REDUCE`. -/
def beforeMix (s : State) : State :=
  let pt := packBlock s.rnd.toNat (s.work s.fromIdx).toNat
  let ct := Config.blockEncrypt s.activeKey pt
  let raw := fit Config.rawW (unpackBlock s.path ct)
  { s with
    ptbuf := pt, ctbuf := ct, raw := raw
    delta := fit Config.workW (natMod raw.toNat (s.modulus s.toIdx).toNat)
    requests := s.requests ++ [{ key := s.activeKey, pt := pt }]
    phase := .rMix }

/-- The state after `R_MIX`. -/
def afterMix (s : State) : State :=
  { s.setWork s.toIdx (mixedWork s) with
    fromIdx := s.toIdx, toIdx := s.fromIdx
    rnd := if lastRound s then s.rnd else nextRound s
    phase := if lastRound s then .xJoin else .rPack }

/-- The state after the five micro-operations of a round. -/
def afterRound (s : State) : State := afterMix (beforeMix s)

theorem round_runsTo {s : State} (hphase : s.phase = .rPack) (hw : HostWaits s.host) : RunsTo 5 s (afterRound s) := by
  refine runsTo_microOp .rPack (by rw [hphase]; rfl) hw (exec_rPack s) ?_
  refine runsTo_microOp .rCiph rfl hw (exec_rCiph _) ?_
  refine runsTo_microOp .rUnpack rfl hw (exec_rUnpack _) ?_
  refine runsTo_microOp .rReduce rfl hw (exec_rReduce _) ?_
  exact runsTo_microOp .rMix rfl hw (exec_rMix (beforeMix s)) rfl

theorem afterMix_frame (s : State) : SameButScratch (afterMix s) { s with phase := (afterMix s).phase } := by
  rw [afterMix]
  cases s.toIdx <;> rfl

/-- A round changes scratch and `PHASE`, and makes the one request of its number. -/
theorem afterRound_frame {s : State} (hfrom : s.fromIdx = Half.ofParity s.rnd.toNat) :
    SameButScratch (afterRound s)
      { s with phase := (afterRound s).phase, requests := s.requests ++ [roundRequest s.cfg s.rnd.toNat s.pair] } := by
  rw [roundRequest, pair_get, ← hfrom]
  exact afterMix_frame (beforeMix s)

theorem afterRound_phase_of_last {s : State} (hlast : lastRound s = true) : (afterRound s).phase = .xJoin :=
  if_pos hlast

theorem afterRound_phase_of_more {s : State} (hmore : lastRound s = false) : (afterRound s).phase = .rPack :=
  if_neg (ne_true_of_eq_false hmore)

theorem afterRound_rnd_of_more {s : State} (hmore : lastRound s = false) : (afterRound s).rnd = nextRound s :=
  if_neg (ne_true_of_eq_false hmore)

theorem afterRound_dir (s : State) : (afterRound s).dir = s.dir := setWork_dir ..

/-- The start of a round: the invariants of R133, R134 and R38, moduli within capacity, and a host that waits. -/
structure RoundStart (s : State) : Prop where
  phase : s.phase = .rPack
  waits : HostWaits s.host
  capacity : ∀ i, s.cfg.modulus i ≤ 2 ^ 64
  range : s.pair.InRange s.cfg
  fromIdx : s.fromIdx = Half.ofParity s.rnd.toNat
  toIdx : s.toIdx = s.fromIdx.other
  rnd : s.rnd.toNat < s.aRounds.toNat

section
variable {s : State} (h : RoundStart s)
include h

theorem RoundStart.work_lt : (s.work s.toIdx).toNat < s.cfg.modulus s.toIdx := by
  rw [← pair_get]
  exact h.range s.toIdx

theorem RoundStart.delta_eq :
    (beforeMix s).delta.toNat =
      roundOutput Config.blockEncrypt s.cfg.key s.cfg.path (s.pair.get (Half.ofParity s.rnd.toNat)) s.rnd.toNat
        (s.cfg.modulus (Half.ofParity s.rnd.toNat).other) := by
  have hpos : 1 ≤ s.cfg.modulus s.toIdx := Nat.zero_lt_of_lt h.work_lt
  simp only [beforeMix]
  rw [← h.fromIdx, ← h.toIdx, pair_get, ← State.cfg_modulus, fit_natMod_toNat hpos (h.capacity _),
    fit_unpackBlock_toNat]
  rfl

/-- The five micro-operations of a round compute the reference's round. -/
theorem RoundStart.pair_afterRound :
    (afterRound s).pair = passRound Config.blockEncrypt s.cfg s.dir s.rnd.toNat s.pair := by
  have hdelta : (beforeMix s).delta.toNat < s.cfg.modulus s.toIdx := by
    rw [h.delta_eq, ← h.fromIdx, ← h.toIdx]
    exact roundOutput_lt _ _ _ _ _ (Nat.zero_lt_of_lt h.work_lt)
  have hmixed : (mixedWork (beforeMix s)).toNat =
      mixValue s.dir (s.work s.toIdx).toNat (beforeMix s).delta.toNat (s.cfg.modulus s.toIdx) := by
    have hfit := (mixValue_lt s.dir h.work_lt hdelta).trans_le (h.capacity _)
    rw [State.cfg_modulus] at hfit ⊢
    exact fit_toNat hfit
  calc (afterRound s).pair
      = s.pair.put s.toIdx (mixedWork (beforeMix s)).toNat := pair_setWork ..
    _ = passRound Config.blockEncrypt s.cfg s.dir s.rnd.toNat s.pair := by
        rw [hmixed, h.delta_eq, ← pair_get, h.toIdx, h.fromIdx]
        rfl

theorem RoundStart.requests_afterRound :
    (afterRound s).requests = s.requests ++ [roundRequest s.cfg s.rnd.toNat s.pair] :=
  (afterRound_frame h.fromIdx).requests_eq

theorem RoundStart.cfg_afterRound : (afterRound s).cfg = s.cfg := (afterRound_frame h.fromIdx).cfg_eq

/-- The next round, up or down, has the other parity and is below `aROUNDS` again. -/
theorem RoundStart.nextRound_spec (hmore : lastRound s = false) :
    Half.ofParity (nextRound s).toNat = (Half.ofParity s.rnd.toNat).other ∧
      (nextRound s).toNat < s.aRounds.toNat := by
  have hrnd := h.rnd
  rw [Bool.eq_false_iff] at hmore
  cases hdir : s.dir with
  | forward =>
    have hne := mt (lastRound_forward hdir).mpr hmore
    rw [nextRound_forward_toNat hdir hrnd]
    exact ⟨ofParity_succ _, by omega⟩
  | inverse =>
    have hne := mt (lastRound_inverse hdir).mpr hmore
    rw [nextRound_inverse_toNat hdir hne]
    exact ⟨ofParity_pred (by omega), by omega⟩

/-- A round that is not the last leads to the start of the next one. -/
theorem RoundStart.next (hmore : lastRound s = false) : RoundStart (afterRound s) := by
  obtain ⟨hparity, hlt⟩ := h.nextRound_spec hmore
  refine ⟨afterRound_phase_of_more hmore, ?_, ?_, ?_, ?_, ?_, ?_⟩
  · rw [(afterRound_frame h.fromIdx).host_eq]
    exact h.waits
  · rw [h.cfg_afterRound]
    exact h.capacity
  · rw [h.pair_afterRound, h.cfg_afterRound]
    exact passRound_inRange _ _ _ h.range
  · rw [afterRound_rnd_of_more hmore, hparity, ← h.fromIdx, ← h.toIdx]
    rfl
  · calc s.fromIdx = s.fromIdx.other.other := (other_other _).symm
      _ = s.toIdx.other := by rw [h.toIdx]
  · rw [afterRound_rnd_of_more hmore, show (afterRound s).aRounds.toNat = s.aRounds.toNat from
      congrArg Cfg.rounds h.cfg_afterRound]
    exact hlt

end

/-! ## The rounds of a pass (R119, R127) -/

/-- From `s` the rounds still to come end in `t`, at the join with the work values `p` and the requests `rs`. -/
structure RoundsEnd (s t : State) (p : Pair) (rs : List CipherRequest) : Prop where
  frame : SameButScratch t { s with phase := .xJoin, requests := rs }
  pair : t.pair = p
  dir : t.dir = s.dir

section
variable {s t : State} {p : Pair} {rs : List CipherRequest} (h : RoundsEnd s t p rs)
include h

theorem RoundsEnd.phase : t.phase = .xJoin := h.frame.phase_eq

theorem RoundsEnd.host : t.host = s.host := h.frame.host_eq

theorem RoundsEnd.cfg_eq : t.cfg = s.cfg := h.frame.cfg_eq

end

/-- After the last round there is nothing more. -/
theorem RoundStart.roundsEnd_last {s : State} (h : RoundStart s) (hlast : lastRound s = true) :
    RoundsEnd s (afterRound s) (afterRound s).pair (afterRound s).requests where
  frame := by
    have hframe := afterRound_frame h.fromIdx
    rwa [afterRound_phase_of_last hlast, ← h.requests_afterRound] at hframe
  pair := rfl
  dir := afterRound_dir s

/-- Where the rounds after this one end, those from this one on end too. -/
theorem RoundStart.roundsEnd_more {s t : State} (h : RoundStart s) {p : Pair} {rs : List CipherRequest}
    (ht : RoundsEnd (afterRound s) t p rs) : RoundsEnd s t p rs where
  frame := ht.frame.trans ((afterRound_frame h.fromIdx).progress .xJoin rs)
  pair := ht.pair
  dir := ht.dir.trans (afterRound_dir s)

/-- The work values and requests of `s` are those after the first `n` forward rounds from `p`, with `rs` before them. -/
structure ForwardDone (c : Cfg) (p : Pair) (rs : List CipherRequest) (n : Nat) (s : State) : Prop where
  pair : s.pair = forwardPass Config.blockEncrypt c n p
  requests : s.requests = rs ++ forwardRequests Config.blockEncrypt c n p

/-- A forward round is one more round of the forward pass. -/
theorem ForwardDone.afterRound {c : Cfg} {p : Pair} {rs : List CipherRequest} {s : State}
    (hdone : ForwardDone c p rs s.rnd.toNat s) (h : RoundStart s) (hc : s.cfg = c) (hdir : s.dir = .forward) :
    ForwardDone c p rs (s.rnd.toNat + 1) (afterRound s) where
  pair := by
    rw [h.pair_afterRound, hc, hdir, hdone.pair]
    rfl
  requests := by
    rw [h.requests_afterRound, hc, hdone.requests, hdone.pair, List.append_assoc]
    rfl

/-- Forward, `n + 1` rounds before the end: the rounds count up to the last and make the whole forward pass. -/
theorem forwardRounds_runTo {c : Cfg} {p : Pair} {rs : List CipherRequest} (n : Nat) {s : State} (h : RoundStart s)
    (hc : s.cfg = c) (hdir : s.dir = .forward) (hn : s.rnd.toNat + (n + 1) = c.rounds)
    (hdone : ForwardDone c p rs s.rnd.toNat s) :
    ∃ t, RunsTo (5 * (n + 1)) s t ∧ RoundsEnd s t (forwardPass Config.blockEncrypt c c.rounds p)
      (rs ++ forwardRequests Config.blockEncrypt c c.rounds p) := by
  induction n generalizing s with
  | zero =>
    have hlast : s.rnd.toNat + 1 = s.aRounds.toNat := hn.trans (congrArg Cfg.rounds hc).symm
    have hend := h.roundsEnd_last ((lastRound_forward hdir).mpr hlast)
    have hall := hdone.afterRound h hc hdir
    rw [hall.pair, hall.requests, hn] at hend
    exact ⟨_, round_runsTo h.phase h.waits, hend⟩
  | succ n ih =>
    have hnotLast : s.rnd.toNat + 1 ≠ s.aRounds.toNat := by
      rw [show s.aRounds.toNat = c.rounds from congrArg Cfg.rounds hc]
      omega
    have hmore : lastRound s = false := Bool.eq_false_iff.mpr (mt (lastRound_forward hdir).mp hnotLast)
    have hrnd : (afterRound s).rnd.toNat = s.rnd.toNat + 1 := by
      rw [afterRound_rnd_of_more hmore, nextRound_forward_toNat hdir h.rnd]
    obtain ⟨t, hrun, hend⟩ := ih (h.next hmore) (h.cfg_afterRound.trans hc) ((afterRound_dir s).trans hdir)
      (by omega) (hrnd ▸ hdone.afterRound h hc hdir)
    have hcount : 5 + 5 * (n + 1) = 5 * (n + 1 + 1) := by omega
    exact ⟨t, hcount ▸ (round_runsTo h.phase h.waits).add hrun, h.roundsEnd_more hend⟩

/-- Inverse, from round `n`: the rounds count down to round 0 and make the inverse pass of `n + 1` rounds. -/
theorem inverseRounds_runTo {c : Cfg} (n : Nat) {s : State} (h : RoundStart s) (hc : s.cfg = c)
    (hdir : s.dir = .inverse) (hn : s.rnd.toNat = n) :
    ∃ t, RunsTo (5 * (n + 1)) s t ∧ RoundsEnd s t (inversePass Config.blockEncrypt c (n + 1) s.pair)
      (s.requests ++ inverseRequests Config.blockEncrypt c (n + 1) s.pair) := by
  induction n generalizing s with
  | zero =>
    have hend := h.roundsEnd_last ((lastRound_inverse hdir).mpr hn)
    rw [h.pair_afterRound, h.requests_afterRound, hc, hdir, hn] at hend
    exact ⟨_, round_runsTo h.phase h.waits, hend⟩
  | succ n ih =>
    have hne : s.rnd.toNat ≠ 0 := by omega
    have hmore : lastRound s = false := Bool.eq_false_iff.mpr (mt (lastRound_inverse hdir).mp hne)
    have hrnd : (afterRound s).rnd.toNat = n := by
      rw [afterRound_rnd_of_more hmore, nextRound_inverse_toNat hdir hne, hn, Nat.add_sub_cancel]
    obtain ⟨t, hrun, hend⟩ := ih (h.next hmore) (h.cfg_afterRound.trans hc) ((afterRound_dir s).trans hdir) hrnd
    rw [h.pair_afterRound, h.requests_afterRound, hc, hdir, hn, List.append_assoc] at hend
    have hcount : 5 + 5 * (n + 1) = 5 * (n + 1 + 1) := by omega
    exact ⟨t, hcount ▸ (round_runsTo h.phase h.waits).add hrun, h.roundsEnd_more hend⟩

/-! ## The whole command (R116, R127) -/

/-- What a pass needs of its configuration: moduli of at least 1 within capacity, and at least one round (R44). -/
structure Cfg.Legal (c : Cfg) : Prop where
  mod0_pos : 1 ≤ c.mod0
  mod1_pos : 1 ≤ c.mod1
  mod0_le : c.mod0 ≤ 2 ^ 64
  mod1_le : c.mod1 ≤ 2 ^ 64
  rounds_pos : 1 ≤ c.rounds

/-- The state at the start of the rounds, when the first of them is round `r`. -/
def splitAt (s : State) (r : BitVec Config.roundsW) : State :=
  { s with
    work0 := fit Config.workW (splitMessage s.cfg s.din.toNat).lo
    work1 := fit Config.workW (splitMessage s.cfg s.din.toNat).hi
    rnd := r, fromIdx := Half.ofParity r.toNat, toIdx := (Half.ofParity r.toNat).other, phase := .rPack }

theorem exec_xSplit_forward {s : State} (hdir : s.dir = .forward) : exec .xSplit s = .next (splitAt s 0) := by
  simp only [exec, execXSplit, splitAt, hdir]
  rfl

theorem exec_xSplit_inverse_splitAt {s : State} (hdir : s.dir = .inverse) (hrounds : 1 ≤ s.aRounds.toNat) :
    exec .xSplit s = .next (splitAt s (fit Config.roundsW (s.aRounds.toNat - 1))) := by
  rw [exec_xSplit_inverse hdir, splitAt, exactSub_eq hrounds, fit_pred_toNat, ofParity_pred hrounds, other_other]
  rfl

section
variable {s : State} (hlegal : s.cfg.Legal)
include hlegal

/-- The split stores both remainders exactly. -/
theorem splitAt_pair (r : BitVec Config.roundsW) : (splitAt s r).pair = splitMessage s.cfg s.din.toNat := by
  have hlo := fit_natMod_toNat (a := s.din.toNat) hlegal.mod0_pos hlegal.mod0_le
  have hhi := fit_natMod_toNat (a := natDiv s.din.toNat s.cfg.mod0) hlegal.mod1_pos hlegal.mod1_le
  exact congrArg₂ Pair.mk hlo hhi

theorem splitAt_roundStart (hw : HostWaits s.host) {r : BitVec Config.roundsW} (hr : r.toNat < s.aRounds.toNat) :
    RoundStart (splitAt s r) where
  phase := rfl
  waits := hw
  capacity i := by
    cases i
    · exact hlegal.mod0_le
    · exact hlegal.mod1_le
  range := by
    rw [splitAt_pair hlegal]
    exact splitMessage_inRange hlegal.mod0_pos hlegal.mod1_pos _
  fromIdx := rfl
  toIdx := rfl
  rnd := hr

/-- From the split, in either direction, the rounds make the pass of that direction. -/
theorem rounds_runTo (hw : HostWaits s.host) :
    ∃ r t, exec .xSplit s = .next (splitAt s r) ∧ RunsTo (5 * s.aRounds.toNat) (splitAt s r) t ∧
      RoundsEnd (splitAt s r) t (passPair Config.blockEncrypt s.cfg s.dir (splitMessage s.cfg s.din.toNat))
        (s.requests ++ passRequests Config.blockEncrypt s.cfg s.dir s.din.toNat) := by
  obtain ⟨n, hn⟩ : ∃ n, s.aRounds.toNat = n + 1 := Nat.exists_eq_add_of_le' hlegal.rounds_pos
  cases hdir : s.dir with
  | forward =>
    have hstart := splitAt_roundStart hlegal hw (r := 0) hlegal.rounds_pos
    obtain ⟨t, hrun, hend⟩ := forwardRounds_runTo n hstart rfl hdir ((Nat.zero_add _).trans hn.symm)
      ⟨splitAt_pair hlegal 0, (List.append_nil _).symm⟩
    exact ⟨0, t, exec_xSplit_forward hdir, hn ▸ hrun, hend⟩
  | inverse =>
    have hr := fit_pred_toNat s.aRounds
    have hstart := splitAt_roundStart hlegal hw (r := fit Config.roundsW (s.aRounds.toNat - 1)) (by omega)
    obtain ⟨t, hrun, hend⟩ := inverseRounds_runTo n hstart rfl hdir (hr.trans (by omega))
    rw [splitAt_pair hlegal, ← hn] at hend
    exact ⟨_, t, exec_xSplit_inverse_splitAt hdir hlegal.rounds_pos, hn ▸ hrun, hend⟩

end

/-- What a pass that succeeds makes of the state. -/
theorem passResult_of_engine {s : State} (dir : Dir) (hvalid : s.cfgValid = true)
    (hdin : s.din.toNat < s.blksz.toNat) :
    passResult dir s = { s with
      dout := fit Config.msgW (passValue Config.blockEncrypt s.cfg dir s.din.toNat)
      err := ErrCode.ok.code
      lastop := dir.opcode
      phase := .idle
      requests := s.requests ++ passRequests Config.blockEncrypt s.cfg dir s.din.toNat } := by
  rw [passResult, if_neg (by rw [hvalid]; decide), if_neg (Nat.not_le_of_lt hdin)]

/-- The join after the rounds of a pass completes it with the result of the reference. -/
theorem RoundsEnd.join {s t : State} {dir : Dir} {r : BitVec Config.roundsW} (hvalid : s.cfgValid = true)
    (hdin : s.din.toNat < s.blksz.toNat) (hdir : s.dir = dir)
    (hend : RoundsEnd (splitAt s r) t (passPair Config.blockEncrypt s.cfg dir (splitMessage s.cfg s.din.toNat))
      (s.requests ++ passRequests Config.blockEncrypt s.cfg dir s.din.toNat)) :
    ∃ u, exec .xJoin t = .next u ∧ SameButScratch u (passResult dir s) := by
  have hcfg : t.cfg = s.cfg := hend.cfg_eq
  have hop : t.dir = dir := hend.dir.trans hdir
  refine ⟨_, exec_xJoin (by rw [hend.phase]; rfl), ?_⟩
  rw [passResult_of_engine dir hvalid hdin, passValue_eq, ← hend.pair, hcfg, ← opcode_eq, hop]
  exact congrArg (fun u : State => { u with
    dout := fit Config.msgW (joinPair s.cfg t.pair), err := 0, lastop := dir.opcode, phase := .idle }) hend.frame

/-- R116, R127, R142: from its acceptance, with an engine, an operand in range and a host that waits, a pass completes in
`3 + 5 * aROUNDS` micro-operations with exactly the result of its function, up to scratch. -/
theorem pass_runsTo {s : State} (hphase : s.phase = .xCheck) (hw : HostWaits s.host) (hlegal : s.cfg.Legal)
    (hvalid : s.cfgValid = true) (hdin : s.din.toNat < s.blksz.toNat) :
    ∃ t, RunsTo (3 + 5 * s.aRounds.toNat) s t ∧ SameButScratch t (passResult s.dir s) := by
  have hcheck : exec .xCheck s = .next { s with phase := .xSplit } := by
    rw [exec_xCheck_of_engine hvalid, if_neg (Nat.not_le_of_lt hdin)]
  obtain ⟨r, t, hsplit, hrun, hend⟩ := rounds_runTo (s := { s with phase := .xSplit }) hlegal hw
  have hwt : HostWaits t.host := by
    rw [hend.host]
    exact hw
  obtain ⟨u, hjoin, hu⟩ := RoundsEnd.join (s := s) (r := r) hvalid hdin rfl hend
  have hlast : RunsTo 1 t u :=
    runsTo_microOp .xJoin (by rw [hend.phase]; rfl) hwt hjoin rfl
  have hrounds := runsTo_microOp .xCheck (by rw [hphase]; rfl) hw hcheck
    (runsTo_microOp .xSplit rfl hw hsplit (hrun.add hlast))
  have hcount : 5 * s.aRounds.toNat + 1 + 1 + 1 = 3 + 5 * s.aRounds.toNat := by omega
  exact ⟨u, hcount ▸ hrounds, hu⟩

end Sys2Proof.Machine
end

section
/-! `ENCRYPT` and `DECRYPT` at the host port: the script loads the operand, starts the pass, waits for it and reads the
result, so the round trip of the functions is one of the port (R81, R136). -/

namespace Sys2Proof.Machine

/-! ## Reads and waits of an idle engine (R47, R48, R80) -/

/-- An idle engine answers a read, and a `WAIT` as a read of `STATUS`, by recording it. -/
theorem step_idle_read {s : State} {e : HostEvent} {rest : List HostEvent} (hidle : s.phase = .idle)
    (hh : s.host = e :: rest) (hop : e.op = .wait ∨ ∃ wa, e.op = .read wa) :
    ∃ wa, step s = .next (recordRead wa { s with host := rest }) := by
  have hstep := step_host hh (hostTurn_idle e hidle)
  rcases hop with hop | ⟨wa, hop⟩ <;> rw [hop] at hstep
  · exact ⟨_, hstep⟩
  · exact ⟨wa, hstep⟩

/-- A script of reads and waits at an idle engine ends with nothing changed but the record of reads. -/
theorem runsTo_reads (ops : List HostOp) (hops : ∀ op ∈ ops, op = .wait ∨ ∃ wa, op = .read wa) {s : State}
    (hidle : s.phase = .idle) (hh : s.host = Script.events ops) :
    ∃ rs, RunsTo ops.length s { s with host := [], reads := rs } := by
  induction ops generalizing s with
  | nil => exact ⟨s.reads, (runsTo_zero _ _).mpr (by rw [← show s.host = [] from hh])⟩
  | cons op ops ih =>
    obtain ⟨wa, hstep⟩ := step_idle_read hidle hh (hops op List.mem_cons_self)
    obtain ⟨rs, hrun⟩ := ih (fun op' hmem => hops op' (List.mem_cons_of_mem op hmem))
      (s := recordRead wa { s with host := Script.events ops }) hidle rfl
    exact ⟨rs, (runsTo_succ hstep).mpr hrun⟩

/-! ## Loading the operand (R53, R54, R81) -/

theorem writeRegister_din {j : Nat} (hj : j < 4) (d : BusWord) (s : State) :
    writeRegister (Reg.din j) d s = { s with din := putWord s.din j d } := by
  interval_cases j <;> rfl

theorem din_ne_cmd {j : Nat} (hj : j < 4) : Reg.din j ≠ Reg.cmd := by
  interval_cases j <;> decide

/-- An idle engine takes a write to a word of `DIN`. -/
theorem step_dinWrite {j : Nat} (hj : j < 4) {d : BusWord} {rest : List HostEvent} {s : State} (hidle : s.phase = .idle)
    (hh : s.host = { gap := 0, op := .write (Reg.din j) d } :: rest) :
    step s = .next { s with din := putWord s.din j d, host := rest } := by
  refine (step_host hh (hostTurn_idle _ hidle)).trans ((if_neg (din_ne_cmd hj)).trans ?_)
  rw [busWrite_idle (s := { s with host := rest }) _ _ hidle, writeRegister_din hj]

/-- A register after the words `js` of it have been written with those of `v`. -/
def loadWords {n : Nat} (v : Nat) (js : List Nat) (x : BitVec n) : BitVec n :=
  js.foldl (fun x j => putWord x j (Script.slice v j)) x

/-- Of the words written in ascending order, each reads back. -/
theorem wordOf_loadWords {n k : Nat} (v : Nat) (x : BitVec n) {j : Nat} (hj : j < k) (hcover : 32 * k ≤ n) :
    wordOf (loadWords v (List.range k) x) j = Script.slice v j := by
  induction k with
  | zero => omega
  | succ k ih =>
    rw [loadWords, List.range_succ, List.foldl_concat]
    by_cases hlast : j = k
    · rw [hlast, wordOf_putWord_same _ _ _ (by omega)]
    · rw [wordOf_putWord_other _ _ _ _ hlast]
      exact ih (by omega) (by omega)

theorem wordOf_ofNat {n : Nat} (v : Nat) {j : Nat} (hv : v < 2 ^ n) :
    wordOf (BitVec.ofNat n v) j = Script.slice v j := by
  apply BitVec.eq_of_toNat_eq
  rw [wordOf_toNat, Script.slice, BitVec.toNat_ofNat, BitVec.toNat_ofNat, Nat.mod_eq_of_lt hv]

/-- The four words of a value of `DIN`'s width make that value, whatever was there before. -/
theorem loadWords_eq {v : Nat} (hv : v < 2 ^ Config.msgW) (x : BitVec Config.msgW) :
    loadWords v (List.range 4) x = BitVec.ofNat Config.msgW v := by
  have hword {j : Nat} (hj : j < 4) :
      wordOf (loadWords v (List.range 4) x) j = wordOf (BitVec.ofNat Config.msgW v) j := by
    rw [wordOf_loadWords v x hj (by decide), wordOf_ofNat v hv]
  apply BitVec.eq_of_toNat_eq
  rw [toNat_eq_four_words _ (by decide), toNat_eq_four_words (BitVec.ofNat Config.msgW v) (by decide),
    hword (by decide), hword (by decide), hword (by decide), hword (by decide)]

/-- Writes of words of `DIN` at an idle engine load those words and change nothing else. -/
theorem runsTo_dinWrites (v : Nat) (js : List Nat) (hjs : ∀ j ∈ js, j < 4) (rest : List HostEvent) {s : State}
    (hidle : s.phase = .idle)
    (hh : s.host = Script.events (js.map fun j => .write (Reg.din j) (Script.slice v j)) ++ rest) :
    RunsTo js.length s { s with din := loadWords v js s.din, host := rest } := by
  induction js generalizing s with
  | nil => exact (runsTo_zero _ _).mpr (by rw [← show s.host = rest from hh]; rfl)
  | cons j js ih =>
    have hj : j < 4 := hjs j List.mem_cons_self
    have hjs' : ∀ j' ∈ js, j' < 4 := fun j' hmem => hjs j' (List.mem_cons_of_mem j hmem)
    exact (runsTo_succ (step_dinWrite hj hidle hh)).mpr (ih hjs' hidle rfl)

theorem runsTo_ldIn {v : Nat} (hv : v < 2 ^ Config.msgW) {rest : List HostEvent} {s : State} (hidle : s.phase = .idle)
    (hh : s.host = Script.events (Script.ldIn v) ++ rest) :
    RunsTo 4 s { s with din := BitVec.ofNat Config.msgW v, host := rest } := by
  rw [← loadWords_eq hv s.din]
  exact runsTo_dinWrites v (List.range 4) (fun j => List.mem_range.mp) rest hidle hh

/-! ## The configuration (R44) -/

/-- The configuration of an engine is one that a pass can run with. -/
theorem cfg_legal {s : State} (hconfig : ConfigInv s) (hvalid : s.cfgValid = true) : s.cfg.Legal := by
  obtain ⟨-, hradix, -, hrounds, hpw0, hpw1, hmod0, hmod0_le, hmod1, -⟩ := hconfig hvalid
  have hpos (n : Nat) : 1 ≤ s.aRadix.toNat ^ n := Nat.pow_pos (by omega)
  have hle : s.mod1.toNat ≤ s.mod0.toNat := by
    rw [hmod0, hmod1, hpw0, hpw1]
    exact Nat.pow_le_pow_right (by omega) (halfDown_le_halfUp _)
  exact {
    mod0_pos := hmod0.ge.trans' (hpos _)
    mod1_pos := hmod1.ge.trans' (hpos _)
    mod0_le := hmod0_le
    mod1_le := hle.trans hmod0_le
    rounds_pos := hrounds }

theorem blksz_eq_cfg {s : State} (hconfig : ConfigInv s) (hvalid : s.cfgValid = true) :
    s.blksz.toNat = s.cfg.blksz := by
  obtain ⟨-, -, -, -, -, -, -, -, -, hblksz, -⟩ := hconfig hvalid
  exact hblksz

/-- A message of a legal configuration fits `DIN` and `DOUT`. -/
theorem Cfg.Legal.lt_of_lt_blksz {c : Cfg} (h : c.Legal) {v : Nat} (hv : v < c.blksz) : v < 2 ^ Config.msgW :=
  calc v < c.mod0 * c.mod1 := hv
    _ ≤ 2 ^ 64 * 2 ^ 64 := Nat.mul_le_mul h.mod0_le h.mod1_le
    _ = 2 ^ Config.msgW := by decide

/-! ## A pass by script (R81) -/

/-- The command that starts the pass of a direction. -/
def Dir.command : Dir → HostOp
  | .forward => Script.enc
  | .inverse => Script.dec

/-- What follows the command in both scripts. -/
def readResult : List HostOp := [.wait, .read Reg.status] ++ Script.rdOut

/-- `ENCRYPT v` or `DECRYPT v`, by direction. -/
def passScript (dir : Dir) (v : Nat) : List HostOp := Script.ldIn v ++ dir.command :: readResult

theorem passScript_forward (v : Nat) : passScript .forward v = Script.encrypt v := rfl

theorem passScript_inverse (v : Nat) : passScript .inverse v = Script.decrypt v := rfl

theorem step_passCommand (dir : Dir) {s : State} {rest : List HostEvent} (hidle : s.phase = .idle)
    (hh : s.host = { gap := 0, op := dir.command } :: rest) :
    step s = .next { s with dir := dir, phase := .xCheck, host := rest } := by
  have hstep := step_host hh (hostTurn_idle _ hidle)
  cases dir with
  | forward => exact hstep.trans (exec_enc_idle (s := { s with host := rest }) hidle)
  | inverse => exact hstep.trans (exec_dec_idle (s := { s with host := rest }) hidle)

/-- The state in which the command of a script is accepted, its operand loaded. -/
def passAccepted (s : State) (dir : Dir) (v : Nat) : State :=
  { s with din := BitVec.ofNat Config.msgW v, dir := dir, phase := .xCheck, host := Script.events readResult }

theorem passAccepted_runsTo {s : State} {dir : Dir} {v : Nat} (hidle : s.phase = .idle) (hv : v < 2 ^ Config.msgW)
    (hhost : s.host = Script.events (passScript dir v)) : RunsTo 5 s (passAccepted s dir v) :=
  have hload := runsTo_ldIn hv (rest := Script.events (dir.command :: readResult)) hidle hhost
  hload.add (runsTo_one (step_passCommand dir hidle rfl))

/-- What `ENCRYPT v` or `DECRYPT v` makes of an idle engine, when its reads have left the record `rs`. -/
def passScriptResult (s : State) (dir : Dir) (v : Nat) (rs : List (WordIndex × BusWord)) : State :=
  { s with
    din := BitVec.ofNat Config.msgW v
    dout := fit Config.msgW (passValue Config.blockEncrypt s.cfg dir v)
    err := 0, lastop := dir.opcode, phase := .idle, host := [], reads := rs
    requests := s.requests ++ passRequests Config.blockEncrypt s.cfg dir v }

/-- The script of a direction, from an idle engine and with an operand in range, ends with the result of its function. -/
theorem passScript_runsTo {s : State} {dir : Dir} {v : Nat} (hconfig : ConfigInv s) (hidle : s.phase = .idle)
    (hvalid : s.cfgValid = true) (hv : v < s.blksz.toNat) (hhost : s.host = Script.events (passScript dir v)) :
    ∃ k t rs, RunsTo k s t ∧ SameButScratch t (passScriptResult s dir v rs) := by
  have hlegal := cfg_legal hconfig hvalid
  have hfits : v < 2 ^ Config.msgW := hlegal.lt_of_lt_blksz (blksz_eq_cfg hconfig hvalid ▸ hv)
  have hload : (passAccepted s dir v).din.toNat = v := (BitVec.toNat_ofNat ..).trans (Nat.mod_eq_of_lt hfits)
  have hdin : (passAccepted s dir v).din.toNat < (passAccepted s dir v).blksz.toNat := hload.trans_lt hv
  obtain ⟨t, hpass, ht⟩ := pass_runsTo (s := passAccepted s dir v) rfl (hostWaits_wait _) hlegal hvalid hdin
  rw [passResult_of_engine (s := passAccepted s dir v) _ hvalid hdin, hload] at ht
  obtain ⟨rs, hreads⟩ := runsTo_reads readResult (by simp [readResult, Script.rdOut]) ht.phase_eq ht.host_eq
  exact ⟨_, _, rs, ((passAccepted_runsTo hidle hfits hhost).add hpass).add hreads,
    congrArg (fun u : State => { u with host := [], reads := rs }) ht⟩

/-- What the host finds after the script of a direction with operand `v`, begun in `s` and ended in `t`: the result, and
an engine with the configuration it had. -/
structure PassCompleted (s t : State) (dir : Dir) (v : Nat) : Prop where
  ended : RunEnded t
  err : t.err = 0
  lastop : t.lastop = dir.opcode
  dout : t.dout.toNat = passValue Config.blockEncrypt s.cfg dir v
  config : ConfigInv t
  valid : t.cfgValid = true
  cfg : t.cfg = s.cfg
  blksz : t.blksz = s.blksz

theorem passCompleted_of_passScriptResult {s t : State} {dir : Dir} {v : Nat} {rs : List (WordIndex × BusWord)}
    (hconfig : ConfigInv s) (hvalid : s.cfgValid = true) (ht : SameButScratch t (passScriptResult s dir v rs)) :
    PassCompleted s t dir v := by
  have hlegal := cfg_legal hconfig hvalid
  obtain ⟨-, ⟨hvalid', -, -, -, -, -, -, -, -, -, hblksz, -⟩, ⟨hdout, herr, hlastop, hphase⟩, hhost, -⟩ :=
    (sameButScratch_iff _ _).mp ht
  have hresult : t.dout.toNat = passValue Config.blockEncrypt s.cfg dir v :=
    (congrArg BitVec.toNat hdout).trans (fit_toNat (hlegal.lt_of_lt_blksz
      (passValue_lt_blksz Config.blockEncrypt hlegal.mod0_pos hlegal.mod1_pos dir v)))
  exact ⟨⟨hhost, hphase⟩, herr, hlastop, hresult, ht.configInv hconfig, hvalid'.trans hvalid, ht.cfg_eq, hblksz⟩

/-- Settles O60: the result of `ENCRYPT m` is in range, so `DECRYPT` of it runs on the same configuration and undoes
it. -/
theorem roundTripAtThePort : Obligations.RoundTripAtThePort := by
  intro s m hinv hidle hvalid hm hhost
  have hlegal := cfg_legal hinv.config hvalid
  have hblksz := blksz_eq_cfg hinv.config hvalid
  have hundo : decrypt Config.blockEncrypt s.cfg (encrypt Config.blockEncrypt s.cfg m) = m :=
    passValue_undo Config.blockEncrypt hlegal.mod0_pos hlegal.mod1_pos (dir := .forward) (dir' := .inverse) (by decide)
      (hblksz ▸ hm)
  obtain ⟨k, t, _, hrun, hframe⟩ := passScript_runsTo (dir := .forward) hinv.config hidle hvalid hm
    (hhost.trans (congrArg Script.events (passScript_forward m).symm))
  have ht := passCompleted_of_passScriptResult hinv.config hvalid hframe
  obtain ⟨-, hidle'⟩ := ht.ended
  have hrange : t.dout.toNat < t.blksz.toNat := by
    rw [ht.dout, ht.blksz, hblksz]
    exact passValue_lt_blksz Config.blockEncrypt hlegal.mod0_pos hlegal.mod1_pos .forward m
  obtain ⟨k', u, _, hrun', hframe'⟩ := passScript_runsTo (dir := .inverse)
    (s := { t with host := Script.events (Script.decrypt t.dout.toNat) }) ht.config hidle' ht.valid hrange
    (congrArg Script.events (passScript_inverse _).symm)
  have hu := passCompleted_of_passScriptResult (s := { t with host := _ }) ht.config ht.valid hframe'
  have hback : u.dout.toNat = m := by
    rw [hu.dout, ht.dout]
    exact (congrArg (passValue Config.blockEncrypt · .inverse _) ht.cfg).trans hundo
  exact ⟨k, t, hrun, ht.ended, ht.err, ht.lastop, ht.dout, k', u, hrun', hu.ended, hu.err, hu.lastop, hback, hundo⟩

end Sys2Proof.Machine
end

section
/-! The decoder and the encoder undo each other: command words as four bytes, phase codes as one (R67 to R70, R74). -/

namespace Sys2Proof.Machine

/-! ## Command words (R67, R70) -/

/-- The bytes of a word, put together again in the decoder's order, are the word. -/
theorem append_commandBytes (d : BusWord) :
    d.extractLsb' 24 8 ++ d.extractLsb' 16 8 ++ d.extractLsb' 8 8 ++ d.extractLsb' 0 8 = d := by
  have hd : d.toNat < 2 ^ 32 := d.isLt
  apply BitVec.eq_of_toNat_eq
  simp only [append_toNat, BitVec.extractLsb'_toNat, Nat.shiftRight_eq_div_pow]
  omega

/-- The four bytes of a command word decode to what the word stands for. -/
theorem decode_commandBytes (d : BusWord) : decode (commandBytes d) = .ok (decodeCommand d) :=
  congrArg (fun w => Except.ok (decodeCommand w)) (append_commandBytes d)

/-- The fields of an illegal word, joined, are a word from 4 upwards. -/
theorem illegalFields_iff (rsv : BitVec 28) (op : BitVec 4) : illegalFields rsv op = true ↔ 4 ≤ (rsv ++ op).toNat := by
  have hop := op.isLt
  have hzero : (0 : BitVec 28).toNat = 0 := rfl
  simp only [illegalFields, Bool.or_eq_true, bne_iff_ne, ne_eq, decide_eq_true_iff, append_toNat, ← BitVec.toNat_inj]
  omega

theorem rsvField_append (rsv : BitVec 28) (op : BitVec 4) : rsvField (rsv ++ op) = rsv := by
  have hop := op.isLt
  apply BitVec.eq_of_toNat_eq
  rw [rsvField_toNat, append_toNat]
  omega

theorem opField_append (rsv : BitVec 28) (op : BitVec 4) : opField (rsv ++ op) = op := by
  have hop := op.isLt
  apply BitVec.eq_of_toNat_eq
  rw [opField_toNat, append_toNat]
  omega

theorem append_fields (d : BusWord) : rsvField d ++ opField d = d := by
  apply BitVec.eq_of_toNat_eq
  rw [append_toNat, rsvField_toNat, opField_toNat]
  exact Nat.div_add_mod d.toNat 16

/-- Settles O1: a phase code is looked up; of a command word the four bytes are the word, and an illegal word keeps its
two fields. -/
theorem decodeEncodeRoundTrip : Obligations.DecodeEncodeRoundTrip := by
  intro i hwf
  cases i with
  | illegal rsv op =>
    calc decode (encode (.illegal rsv op))
        = .ok (decodeCommand (rsv ++ op)) := decode_commandBytes (rsv ++ op)
      _ = .ok (.illegal rsv op) := by
          rw [decodeCommand_of_four_le ((illegalFields_iff rsv op).mp hwf), rsvField_append, opField_append]
  | nop | init | enc | dec => exact decode_commandBytes _
  | _ => rfl

/-- Settles O2: the words 0 to 3 are the commands' own; any other word is its two fields, joined. -/
theorem encodeDecodeCommandWord : Obligations.EncodeDecodeCommandWord := by
  intro d
  by_cases hd : 4 ≤ d.toNat
  · rw [decodeCommand_of_four_le hd]
    exact ⟨(illegalFields_iff _ _).mpr (by rwa [append_fields]), congrArg commandBytes (append_fields d)⟩
  · obtain ⟨v, hv, rfl⟩ : ∃ v < 4, d = BitVec.ofNat 32 v := ⟨d.toNat, by omega, by simp⟩
    interval_cases v <;> decide

/-- Settles O4: the words are the tables' rows, and a byte above 15 is no phase code. -/
theorem writtenOutWordsDecode : Obligations.WrittenOutWordsDecode :=
  ⟨rfl, rfl, rfl, rfl, rfl, rfl, rfl, rfl, rfl, rfl, rfl, fun _ hb => if_neg (Nat.not_lt_of_le hb)⟩

/-! ## Phase codes (R74) -/

/-- As one byte, the code of a phase decodes to that phase's micro-operation and nothing else. -/
theorem decode_phaseCode (p : Phase) (i : Instr) : decode [p.code.setWidth 8] = .ok i ↔ microOp p = some i := by
  cases p <;> simp [decode, decodePhase, microOp, Phase.code, Except.toOption]

end Sys2Proof.Machine
end

section
/-! What one instruction can do, said once: a command at its acceptance, and a micro-operation of the sequencer with the
four ways in which it can end (R50, R83, R89, R90). -/

namespace Sys2Proof.Machine

/-! ## Commands (R50, R83) -/

/-- What a command word makes of an idle engine. -/
inductive CommandOutcome (s : State) : State → Prop where
  | nothing : CommandOutcome s s
  | startsInit : CommandOutcome s { s with phase := .iKeychk }
  | startsPass (dir : Dir) : CommandOutcome s { s with dir := dir, phase := .xCheck }
  | isIllegal (op : BitVec 4) : CommandOutcome s { s with err := 5, lastop := op }

/-- The effect of a command on an idle engine (R84 to R88). -/
def commandEffect : Instr → State → State
  | .init, s => { s with phase := .iKeychk }
  | .enc, s => { s with dir := .forward, phase := .xCheck }
  | .dec, s => { s with dir := .inverse, phase := .xCheck }
  | .illegal _ op, s => { s with err := 5, lastop := op }
  | _, s => s

/-- What a command word decodes to is accepted by an idle engine and dropped by a busy one. -/
theorem exec_decodeCommand (d : BusWord) (s : State) :
    exec (decodeCommand d) s = acceptCommand (commandEffect (decodeCommand d)) s := by
  by_cases hd : 4 ≤ d.toNat
  · rw [decodeCommand_of_four_le hd]
    rfl
  · obtain ⟨-, hdec⟩ | ⟨-, hdec⟩ | ⟨-, hdec⟩ | ⟨-, hdec⟩ := decodeCommand_of_lt_four (Nat.lt_of_not_le hd) <;>
      rw [hdec] <;> rfl

theorem exec_command_idle (d : BusWord) {s : State} (hidle : s.phase = .idle) :
    exec (decodeCommand d) s = .next (commandEffect (decodeCommand d) s) := by
  rw [exec_decodeCommand, acceptCommand_idle _ hidle]

theorem exec_command_busy (d : BusWord) {s : State} (hbusy : s.phase ≠ .idle) : exec (decodeCommand d) s = .next s := by
  rw [exec_decodeCommand, acceptCommand_busy _ hbusy]

theorem commandEffect_outcome (i : Instr) (s : State) : CommandOutcome s (commandEffect i s) := by
  cases i with
  | init => exact .startsInit
  | enc => exact .startsPass .forward
  | dec => exact .startsPass .inverse
  | illegal rsv op => exact .isIllegal op
  | _ => exact .nothing

theorem exec_command_cases {d : BusWord} {s t : State} (h : exec (decodeCommand d) s = .next t) :
    (s.phase = .idle ∧ CommandOutcome s t) ∨ (s.phase ≠ .idle ∧ t = s) := by
  by_cases hidle : s.phase = .idle
  · obtain rfl := Host.Outcome.next.inj ((exec_command_idle d hidle).symm.trans h)
    exact .inl ⟨hidle, commandEffect_outcome _ s⟩
  · exact .inr ⟨hidle, (Host.Outcome.next.inj ((exec_command_busy d hidle).symm.trans h)).symm⟩

/-! ## Micro-operations (R74, R90) -/

/-- The errors that the micro-operation of a phase can raise (R92, R93, R95, R117). -/
def Phase.errors : Phase → List ErrCode
  | .iKeychk => [.invalidKeyLength]
  | .iParchk => [.invalidParameters]
  | .iExp => [.capacityExceeded]
  | .xCheck => [.notConfigured, .outOfRange]
  | _ => []

theorem ok_not_mem_errors (p : Phase) : ErrCode.ok ∉ p.errors := by
  cases p <;> decide

/-- The new active configuration, before `I_COMMIT` completes the command (R100). -/
def committed (s : State) : State :=
  { s with
    aKeylen := s.keylen, aKey := keepKey s.key s.keylen.toNat
    aRadix := s.radix, aWidth := s.width, aRounds := s.rounds
    pw0 := s.tPw0, pw1 := s.tPw1, mod0 := s.tMod0, mod1 := s.tMod1
    blksz := s.tBlk, path := s.tPath, cfgValid := true }

theorem exec_iCommit (s : State) : exec .iCommit s = .next (finish .ok (committed s)) := rfl

/-- The four ways in which the micro-operation of a busy state can end: the command goes on, it completes with an error,
or it completes with success at `X_JOIN` or at `I_COMMIT`. -/
inductive MicroOutcome (s t : State) : Prop where
  | continues (p : Phase) (rs : List CipherRequest) (busy : p ≠ .idle) (kind : p.ofInit = s.phase.ofInit)
      (frame : SameButScratch t { s with phase := p, requests := rs })
  | raises (e : ErrCode) (mem : e ∈ s.phase.errors) (eq : t = finish e s)
  | joins (v : BitVec Config.msgW) (phase : s.phase = .xJoin) (eq : t = finish .ok { s with dout := v })
  | commits (phase : s.phase = .iCommit) (eq : t = finish .ok (committed s))

theorem exec_iExp_of_over {s : State} (h : s.cnt.toNat < s.tPw0.toNat ∧ Config.modMax < s.acc.toNat * s.radix.toNat) :
    exec .iExp s = raiseError .capacityExceeded s :=
  if_pos h

/-- `T_MOD[1]` after an `I_EXP` that does not raise: the power reached, if it is that of the lower half. -/
def nextTMod1 (s : State) : BitVec Config.modW := if s.cnt = s.tPw1 then fit Config.modW s.acc.toNat else s.tMod1

theorem exec_iExp_last {s : State} (h : s.cnt = s.tPw0) :
    exec .iExp s = .next { s with tMod1 := nextTMod1 s, tMod0 := fit Config.modW s.acc.toNat, phase := .iPath } :=
  (if_neg fun hover => Nat.ne_of_lt hover.1 (congrArg BitVec.toNat h)).trans (if_pos h)

theorem exec_iExp_more {s : State} (h : s.cnt ≠ s.tPw0)
    (hcap : ¬(s.cnt.toNat < s.tPw0.toNat ∧ Config.modMax < s.acc.toNat * s.radix.toNat)) :
    exec .iExp s = .next { s with
      tMod1 := nextTMod1 s, acc := fit Config.blkW (s.acc.toNat * s.radix.toNat)
      cnt := fit Config.widthW (s.cnt.toNat + 1), phase := .iExp } :=
  (if_neg hcap).trans (if_neg h)

theorem exec_iPath (s : State) :
    exec .iPath s = .next { s with
      tBlk := fit Config.blkW (s.tMod0.toNat * s.tMod1.toNat), tPath := pathOf (s.tMod0.toNat * s.tMod1.toNat)
      phase := .iCommit } := rfl

theorem exec_microOp (s : State) {i : Instr} (hi : microOp s.phase = some i) :
    ∃ t, exec i s = .next t ∧ MicroOutcome s t := by
  cases hp : s.phase <;> rw [hp] at hi <;> cases hi
  case iKeychk =>
    by_cases hlen : s.keylen.toNat ∈ Config.keylens
    · exact ⟨_, exec_iKeychk_of_mem hlen, .continues .iParchk _ (by decide) (by simp [hp, Phase.ofInit]) rfl⟩
    · exact ⟨_, exec_iKeychk_of_not_mem hlen, .raises .invalidKeyLength (by rw [hp]; decide) rfl⟩
  case iParchk =>
    by_cases hpar : s.radix.toNat < 2 ∨ s.width.toNat < 1 ∨ s.rounds.toNat < 1
    · exact ⟨_, exec_iParchk_of_invalid hpar, .raises .invalidParameters (by rw [hp]; decide) rfl⟩
    · exact ⟨_, exec_iParchk_of_valid hpar, .continues .iWidths _ (by decide) (by simp [hp, Phase.ofInit]) rfl⟩
  case iWidths => exact ⟨_, exec_iWidths s, .continues .iExp _ (by decide) (by simp [hp, Phase.ofInit]) rfl⟩
  case iExp =>
    by_cases hover : s.cnt.toNat < s.tPw0.toNat ∧ Config.modMax < s.acc.toNat * s.radix.toNat
    · exact ⟨_, exec_iExp_of_over hover, .raises .capacityExceeded (by rw [hp]; decide) rfl⟩
    · by_cases hlast : s.cnt = s.tPw0
      · exact ⟨_, exec_iExp_last hlast, .continues .iPath _ (by decide) (by simp [hp, Phase.ofInit]) rfl⟩
      · exact ⟨_, exec_iExp_more hlast hover, .continues .iExp _ (by decide) (by simp [hp, Phase.ofInit]) rfl⟩
  case iPath => exact ⟨_, exec_iPath s, .continues .iCommit _ (by decide) (by simp [hp, Phase.ofInit]) rfl⟩
  case iCommit => exact ⟨_, exec_iCommit s, .commits hp rfl⟩
  case xCheck =>
    by_cases hvalid : s.cfgValid = true
    · rw [exec_xCheck_of_engine hvalid]
      by_cases hrange : s.blksz.toNat ≤ s.din.toNat
      · rw [if_pos hrange]
        exact ⟨_, rfl, .raises .outOfRange (by rw [hp]; decide) rfl⟩
      · rw [if_neg hrange]
        exact ⟨_, rfl, .continues .xSplit _ (by decide) (by simp [hp, Phase.ofInit]) rfl⟩
    · exact ⟨_, exec_xCheck_of_no_engine (Bool.eq_false_iff.mpr hvalid),
        .raises .notConfigured (by rw [hp]; decide) rfl⟩
  case xSplit => exact ⟨_, rfl, .continues .rPack _ (by decide) (by simp [hp, Phase.ofInit]) rfl⟩
  case rPack => exact ⟨_, exec_rPack s, .continues .rCiph _ (by decide) (by simp [hp, Phase.ofInit]) rfl⟩
  case rCiph => exact ⟨_, exec_rCiph s, .continues .rUnpack _ (by decide) (by simp [hp, Phase.ofInit]) rfl⟩
  case rUnpack => exact ⟨_, exec_rUnpack s, .continues .rReduce _ (by decide) (by simp [hp, Phase.ofInit]) rfl⟩
  case rReduce => exact ⟨_, exec_rReduce s, .continues .rMix _ (by decide) (by simp [hp, Phase.ofInit]) rfl⟩
  case rMix =>
    refine ⟨afterMix s, exec_rMix s, .continues (afterMix s).phase _ ?_ ?_ (afterMix_frame s)⟩ <;>
      cases hlast : lastRound s <;> simp [afterMix, hlast, hp, Phase.ofInit]
  case xJoin => exact ⟨_, rfl, .joins _ hp rfl⟩

theorem exec_microOp_cases {s t : State} {i : Instr} (hi : microOp s.phase = some i) (h : exec i s = .next t) :
    MicroOutcome s t := by
  obtain ⟨u, hexec, hout⟩ := exec_microOp s hi
  obtain rfl : u = t := Host.Outcome.next.inj (hexec.symm.trans h)
  exact hout

/-- No micro-operation touches what the host has still to do or has read (assumption 10). -/
theorem MicroOutcome.host_reads {s t : State} (h : MicroOutcome s t) : t.host = s.host ∧ t.reads = s.reads := by
  cases h with
  | continues _ _ _ _ hframe =>
    obtain ⟨-, -, -, hhost, hreads, -⟩ := (sameButScratch_iff _ _).mp hframe
    exact ⟨hhost, hreads⟩
  | raises e _ ht | joins v _ ht | commits _ ht =>
    rw [ht]
    exact ⟨rfl, rfl⟩

end Sys2Proof.Machine
end

section
/-! One step, by who moves: a command word, a micro-operation, a read, a `WAIT`, a dropped write, a reset, or nobody
(R47, R48, R50, R67, R74, R80, R90, R159). -/

namespace Sys2Proof.Machine

/-! ## The host's turn (R47) -/

/-- A transaction other than `WAIT` is due in `IDLE`, and at gap 0 in any phase. -/
theorem hostTurn_of_due {s : State} {gap : Nat} {op : HostOp} (hop : op ≠ .wait) (h : s.phase = .idle ∨ gap = 0) :
    hostTurn s { gap := gap, op := op } = true := by
  by_cases hidle : s.phase = .idle
  · exact hostTurn_idle _ hidle
  · exact (hostTurn_busy _ hidle).mpr ⟨h.resolve_left hidle, hop⟩

/-- A busy engine goes on while the gap has not passed, and during a `WAIT`. -/
theorem hostTurn_of_not_due {s : State} {e : HostEvent} (hbusy : s.phase ≠ .idle) (h : e.gap ≠ 0 ∨ e.op = .wait) :
    hostTurn s e = false := by
  rw [Bool.eq_false_iff, Ne, hostTurn_busy e hbusy]
  rintro ⟨hgap, hop⟩
  exact h.elim (· hgap) hop

theorem microOp_ne_idle {s : State} {i : Instr} (hi : microOp s.phase = some i) : s.phase ≠ .idle := by
  intro hidle
  rw [hidle, microOp_idle] at hi
  contradiction

theorem step_sequencer_cons {s : State} {i : Instr} {e : HostEvent} {rest : List HostEvent}
    (hi : microOp s.phase = some i) (hh : s.host = e :: rest) (h : e.gap ≠ 0 ∨ e.op = .wait) :
    step s = exec i { s with host := { e with gap := e.gap - 1 } :: rest } := by
  have hturn : ∀ e' ∈ s.host.head?, hostTurn s e' = false := by
    rw [hh]
    rintro e' ⟨⟩
    exact hostTurn_of_not_due (microOp_ne_idle hi) h
  rw [step_sequencer hi hturn, hh, countGap]

theorem hostWaits_nil : HostWaits [] := by
  rintro e ⟨⟩

/-- Settles O5: the host's turn has come, and the bytes of a word decode to what the word stands for. -/
theorem stepRunsTheCommandWord : Obligations.StepRunsTheCommandWord := by
  intro s gap d rest i hh hdue hdec
  rw [decode_commandBytes] at hdec
  rw [step_host hh (hostTurn_of_due HostOp.noConfusion hdue), ← Except.ok.inj hdec]
  exact if_pos rfl

/-- Settles O6: the code decodes to the phase's micro-operation, and it is the sequencer's turn. -/
theorem stepRunsTheMicroOperation : Obligations.StepRunsTheMicroOperation := by
  intro s i hdec
  have hi := (decode_phaseCode s.phase i).mp hdec
  constructor
  · intro hh
    rw [step_sequencer hi (by simp [hh]), hh, countGap, ← hh]
  · exact fun e rest hh h => step_sequencer_cons hi hh h

/-- Settles O7: the host's five transactions, the micro-operations and the idle stutter all answer a next state. -/
theorem everyStepAnswersNext : Obligations.EveryStepAnswersNext := by
  intro s
  by_cases hturn : ∃ e rest, s.host = e :: rest ∧ hostTurn s e = true
  · obtain ⟨e, rest, hh, ht⟩ := hturn
    rw [step_host hh ht]
    cases e.op with
    | write wa d =>
      by_cases hcmd : wa = Reg.cmd
      · simp only [hcmd, if_true]
        by_cases hidle : s.phase = .idle
        · exact ⟨_, exec_command_idle (s := { s with host := rest }) d hidle⟩
        · exact ⟨_, exec_command_busy (s := { s with host := rest }) d hidle⟩
      · simp only [hcmd, if_false]
        exact ⟨_, rfl⟩
    | _ => exact ⟨_, rfl⟩
  · have hno : ∀ e ∈ s.host.head?, hostTurn s e = false := by
      intro e he
      obtain ⟨rest, hh⟩ := List.head?_eq_some_iff.mp he
      exact Bool.eq_false_iff.mpr fun ht => hturn ⟨e, rest, hh, ht⟩
    by_cases hidle : s.phase = .idle
    · cases hh : s.host with
      | nil => exact ⟨s, step_settled hidle hh⟩
      | cons e rest => exact absurd ⟨e, rest, hh, hostTurn_idle e hidle⟩ hturn
    · obtain ⟨i, hi⟩ := microOp_busy hidle
      obtain ⟨t, ht, -⟩ := exec_microOp { s with host := countGap s.host } hi
      exact ⟨t, (step_sequencer hi hno).trans ht⟩

/-- Settles O8: neither the host nor the sequencer has a step. -/
theorem idleEngineWaitsForTheHost : Obligations.IdleEngineWaitsForTheHost :=
  fun _ ⟨hh, hidle⟩ => step_settled hidle hh

/-- Settles O9: the read is due, and a recorded read changes the record alone. -/
theorem readChangesNothing : Obligations.ReadChangesNothing := by
  intro s gap wa rest hh hdue
  rw [step_host hh (hostTurn_of_due HostOp.noConfusion hdue)]
  rfl

/-- Settles O11: a register write while busy has no effect, and neither has a command. -/
theorem writeWhileBusyIsDropped : Obligations.WriteWhileBusyIsDropped := by
  refine ⟨fun s wa d rest hh hbusy => ?_, fun s d hbusy => exec_command_busy d hbusy⟩
  rw [step_host hh (hostTurn_of_due HostOp.noConfusion (.inr rfl))]
  by_cases hcmd : wa = Reg.cmd
  · exact (if_pos hcmd).trans (exec_command_busy (s := { s with host := rest }) d hbusy)
  · exact (if_neg hcmd).trans (congrArg _ (busWrite_busy (s := { s with host := rest }) wa d hbusy))

/-- Settles O18: in `IDLE` the `WAIT` is due and reads `BUSY = 0`; before, the sequencer steps and reads nothing. -/
theorem waitEndsWhenBusyIsZero : Obligations.WaitEndsWhenBusyIsZero := by
  intro s gap rest hh
  constructor
  · intro hidle
    rw [step_host hh (hostTurn_idle _ hidle)]
    exact ⟨rfl, by rw [status_mod_two, if_pos hidle]⟩
  · intro hbusy
    obtain ⟨i, hi⟩ := microOp_busy hbusy
    obtain ⟨t, hexec, hout⟩ := exec_microOp { s with host := { gap := gap - 1, op := .wait } :: rest } hi
    obtain ⟨hhost, hreads⟩ := hout.host_reads
    exact ⟨t, (step_sequencer_cons hi hh (.inr rfl)).trans hexec, hreads, hhost⟩

/-! ## Reset (R159, R160) -/

theorem busRead_reset (wa : WordIndex) : busRead State.reset wa = 0 := by
  decide +revert

theorem busRead_resetEngine (s : State) (wa : WordIndex) : busRead (resetEngine s) wa = 0 :=
  busRead_reset wa

/-- After reset `INIT` is accepted and fails at once, since `KEYLEN` is 0 (R161). -/
theorem init_after_reset (s : State) :
    ∃ u, RunsTo 2 { resetEngine s with host := [{ gap := 0, op := .write Reg.cmd 1 }] } u ∧
      u.phase = .idle ∧ u.err = 1 ∧ u.lastop = 1 := by
  have hzero : (State.reset.keylen).toNat ∉ Config.keylens := by decide
  have haccept : step { resetEngine s with host := [{ gap := 0, op := .write Reg.cmd 1 }] } =
      .next { resetEngine s with host := [], phase := .iKeychk } := by
    rw [step_host rfl rfl]
    exact (if_pos rfl).trans (exec_command_idle 1 rfl)
  have hkeychk : step { resetEngine s with host := [], phase := .iKeychk } =
      .next (finish .invalidKeyLength { resetEngine s with host := [], phase := .iKeychk }) := by
    rw [step_microOp (i := .iKeychk) rfl hostWaits_nil]
    exact exec_iKeychk_of_not_mem hzero
  exact ⟨_, (runsTo_succ haccept).mpr (runsTo_one hkeychk), rfl, rfl, rfl⟩

/-- Settles O17: the reset transition puts every register at its reset value. -/
theorem resetFromAnyState : Obligations.ResetFromAnyState := by
  intro s gap rest hh hdue
  have hkey : ∀ k : Fin 32, State.reset.key[k] = 0 := by decide
  refine ⟨_, step_host hh (hostTurn_of_due HostOp.noConfusion hdue), rfl, rfl, rfl, rfl, rfl, rfl, rfl, rfl, hkey, rfl,
    hkey, rfl, rfl, rfl, rfl, rfl, rfl, rfl, rfl, rfl, rfl, rfl, rfl, rfl, rfl, busRead_resetEngine _,
    init_after_reset { s with host := rest }⟩

end Sys2Proof.Machine
end

section
/-! The host register space: the words that read 0, and what a write to each operand word stores (R48, R49, R52, R53,
R55). -/

namespace Sys2Proof.Machine

/-! ## Words that read 0 (R48, R52) -/

/-- Settles O10: the map of R51 assigns nothing to these words. -/
theorem writeOnlyAndReservedReadZero : Obligations.WriteOnlyAndReservedReadZero := by
  intro s wa h
  unfold busRead
  split
  case h_30 => rfl
  all_goals omega

/-! ## What a write stores (R49, R53, R55) -/

/-- What an idle engine makes of a write of `d` to word `wa`. -/
inductive WriteOutcome (wa : WordIndex) (d : BusWord) (s : State) : State → Prop where
  | radix (j : Nat) (hj : j < 2) (hwa : wa.toNat = 2 + j) :
      WriteOutcome wa d s { s with radix := putWord s.radix j d }
  | width (hwa : wa.toNat = 4) : WriteOutcome wa d s { s with width := putWord s.width 0 d }
  | rounds (hwa : wa.toNat = 5) : WriteOutcome wa d s { s with rounds := putWord s.rounds 0 d }
  | keylen (hwa : wa.toNat = 6) : WriteOutcome wa d s { s with keylen := putWord s.keylen 0 d }
  | key (j : Nat) (hj : j < 8) (hwa : wa.toNat = 8 + j) :
      WriteOutcome wa d s { s with key := putKeyWord s.key j d }
  | din (j : Nat) (hj : j < 4) (hwa : wa.toNat = 16 + j) :
      WriteOutcome wa d s { s with din := putWord s.din j d }
  | ignored (hwa : wa.toNat < 2 ∨ wa.toNat = 7 ∨ 19 < wa.toNat) : WriteOutcome wa d s s

theorem writeRegister_outcome (wa : WordIndex) (d : BusWord) (s : State) :
    WriteOutcome wa d s (writeRegister wa d s) := by
  unfold writeRegister
  split
  · exact .radix 0 (by omega) (by assumption)
  · exact .radix 1 (by omega) (by assumption)
  · exact .width (by assumption)
  · exact .rounds (by assumption)
  · exact .keylen (by assumption)
  · exact .key 0 (by omega) (by assumption)
  · exact .key 1 (by omega) (by assumption)
  · exact .key 2 (by omega) (by assumption)
  · exact .key 3 (by omega) (by assumption)
  · exact .key 4 (by omega) (by assumption)
  · exact .key 5 (by omega) (by assumption)
  · exact .key 6 (by omega) (by assumption)
  · exact .key 7 (by omega) (by assumption)
  · exact .din 0 (by omega) (by assumption)
  · exact .din 1 (by omega) (by assumption)
  · exact .din 2 (by omega) (by assumption)
  · exact .din 3 (by omega) (by assumption)
  · exact .ignored (by grind)

section
variable {wa : WordIndex} {d : BusWord} {s t : State} (h : WriteOutcome wa d s t)
include h

/-- Every other word reads as before. -/
theorem WriteOutcome.busRead_other {wa' : WordIndex} (hne : wa' ≠ wa) : busRead t wa' = busRead s wa' := by
  have hnum : wa'.toNat ≠ wa.toNat := fun heq => hne (BitVec.eq_of_toNat_eq heq)
  cases h with
  | radix j hj hwa =>
    rw [busRead_radix, show busRead s wa' = _ from busRead_radix s s.radix wa']
    split_ifs with h2 h3
    · exact wordOf_putWord_other _ _ _ _ (by omega)
    · exact wordOf_putWord_other _ _ _ _ (by omega)
    · rfl
  | width hwa => rw [busRead_width, if_neg (by omega)]
  | rounds hwa => rw [busRead_rounds, if_neg (by omega)]
  | keylen hwa => rw [busRead_keylen, if_neg (by omega)]
  | key j hj hwa => exact busRead_key s _ wa'
  | din j hj hwa =>
    rw [busRead_din, show busRead s wa' = _ from busRead_din s s.din wa']
    split_ifs with hdin
    · exact wordOf_putWord_other _ _ _ _ (by omega)
    · rfl
  | ignored => rfl

/-- A word inside its register reads back what was written. -/
theorem WriteOutcome.busRead_same (hwa : wa.toNat ∈ [2, 3, 5, 16, 17, 18, 19]) : busRead t wa = d := by
  simp only [List.mem_cons, List.not_mem_nil, or_false] at hwa
  cases h with
  | radix j hj hwa' =>
    rw [busRead_radix]
    split_ifs with h2 h3
    · obtain rfl : j = 0 := by omega
      exact wordOf_putWord_same _ _ _ (by decide)
    · obtain rfl : j = 1 := by omega
      exact wordOf_putWord_same _ _ _ (by decide)
    · omega
  | rounds hwa' => rw [busRead_rounds, if_pos hwa', wordOf_putWord_same _ _ _ (by decide)]
  | din j hj hwa' =>
    have hidx : wa.toNat - 16 = j := by omega
    have hcover : 32 * j + 32 ≤ Config.msgW := show 32 * j + 32 ≤ 128 by omega
    rw [busRead_din, if_pos (by omega), hidx, wordOf_putWord_same _ _ _ hcover]
  | width | keylen | key | ignored => omega

theorem WriteOutcome.busRead_width (hwa : wa.toNat = 4) : (busRead t wa).toNat = d.toNat % 2 ^ 8 := by
  cases h with
  | width =>
    rw [Machine.busRead_width, if_pos hwa, wordOf_zero_toNat _ (by decide), putWord_zero_narrow _ _ (by decide)]
    exact BitVec.toNat_setWidth ..
  | radix | rounds | keylen | key | din | ignored => omega

theorem WriteOutcome.busRead_keylen (hwa : wa.toNat = 6) : (busRead t wa).toNat = d.toNat % 2 ^ 6 := by
  cases h with
  | keylen =>
    rw [Machine.busRead_keylen, if_pos hwa, wordOf_zero_toNat _ (by decide), putWord_zero_narrow _ _ (by decide)]
    exact BitVec.toNat_setWidth ..
  | radix | width | rounds | key | din | ignored => omega

theorem WriteOutcome.key_eq (hwa : wa.toNat < 8 ∨ 15 < wa.toNat) : t.key = s.key := by
  cases h with
  | key j hj hwa' => omega
  | _ => rfl

/-- A write outside the operand registers is ignored. -/
theorem WriteOutcome.eq_of_ignored (hwa : wa.toNat ∉ [2, 3, 4, 5, 6, 16, 17, 18, 19])
    (hkey : wa.toNat < 8 ∨ 15 < wa.toNat) : t = s := by
  simp only [List.mem_cons, List.not_mem_nil, or_false, not_or] at hwa
  cases h with
  | ignored => rfl
  | radix | width | rounds | keylen | key | din => omega

end

theorem step_idle_write {s : State} {gap : Nat} {wa : WordIndex} {d : BusWord} {rest : List HostEvent}
    (hh : s.host = { gap := gap, op := .write wa d } :: rest) (hidle : s.phase = .idle) (hwa : wa ≠ Reg.cmd) :
    step s = .next (writeRegister wa d { s with host := rest }) := by
  rw [step_host hh (hostTurn_idle _ hidle), ← busWrite_idle (s := { s with host := rest }) wa d hidle]
  exact if_neg hwa

/-- Settles O12: an idle engine writes the register that the word maps, or none. -/
theorem idleWriteStoresItsWord : Obligations.IdleWriteStoresItsWord := by
  intro s gap wa d rest hh hidle hwa
  have hout := writeRegister_outcome wa d { s with host := rest }
  exact ⟨_, step_idle_write hh hidle hwa, writeRegister_frame wa d { s with host := rest },
    fun wa' hne => hout.busRead_other hne, hout.busRead_same, hout.busRead_width, hout.busRead_keylen, hout.key_eq,
    hout.eq_of_ignored⟩

/-! ## Key words (R55) -/

theorem writeRegister_key {j : Nat} (hj : j < 8) (d : BusWord) (s : State) :
    writeRegister (Reg.key j) d s = { s with key := putKeyWord s.key j d } := by
  interval_cases j <;> rfl

theorem key_ne_cmd {j : Nat} (hj : j < 8) : Reg.key j ≠ Reg.cmd := by
  interval_cases j <;> decide

/-- Settles O13: word `j` of the key holds the bytes `4j` to `4j + 3`, each a byte of the word written. -/
theorem keyWriteLaysBytesLittleEndian : Obligations.KeyWriteLaysBytesLittleEndian := by
  intro s gap j d rest hj hh hidle
  refine ⟨_, step_idle_write hh hidle (key_ne_cmd hj), ?_, fun k => ?_⟩ <;> rw [writeRegister_key hj]
  exact getElem_putKeyWord s.key j d k.val k.isLt

end Sys2Proof.Machine
end

section
/-! Single micro-operations: the exponentiation, the path, the commit, the forward split, the cipher request, and the
completion with an error (R95, R98, R100, R107, R118, R151). -/

namespace Sys2Proof.Machine

/-! ## The micro-operations of `INIT` (R95, R98, R100) -/

/-- `T_MOD[1]` holds the power reached exactly, or what it held. -/
theorem nextTMod1_spec {s : State} (hacc : s.acc.toNat ≤ 2 ^ 64) :
    (s.cnt = s.tPw1 → (nextTMod1 s).toNat = s.acc.toNat) ∧ (s.cnt ≠ s.tPw1 → nextTMod1 s = s.tMod1) := by
  refine ⟨fun heq => ?_, fun hne => if_neg hne⟩
  rw [nextTMod1, if_pos heq]
  exact fit_toNat (hacc.trans_lt (by decide))

/-- Settles O27: the capacity test comes first; a value of at most `2^64` and a count of at most `T_PW[0]` fit their
registers. -/
theorem exponentiationStep : Obligations.ExponentiationStep := by
  intro s hphase hacc hcnt
  have hinit : s.phase.ofInit = true := by rw [hphase]; rfl
  refine ⟨fun hlt hover => ?_, fun hlt hcap => ?_, fun hlast => ?_⟩
  · exact ⟨_, (exec_iExp_of_over ⟨hlt, hover⟩).trans (raiseError_init hinit (by decide)), rfl⟩
  · have hne : s.cnt ≠ s.tPw0 := fun heq => Nat.ne_of_lt hlt (congrArg BitVec.toNat heq)
    refine ⟨_, exec_iExp_more hne fun hover => Nat.not_lt_of_le hcap hover.2, by rw [hphase], ?_, ?_,
      nextTMod1_spec hacc⟩
    · exact fit_toNat (hcap.trans_lt (by decide))
    · exact fit_toNat (Nat.lt_of_le_of_lt hlt s.tPw0.isLt)
  · exact ⟨_, exec_iExp_last hlast, rfl, fit_toNat (hacc.trans_lt (by decide)), nextTMod1_spec hacc⟩

/-- A product of two moduli within capacity fits `T_BLK`. -/
theorem mul_lt_of_le {a b : Nat} (ha : a ≤ 2 ^ 64) (hb : b ≤ 2 ^ 64) : a * b < 2 ^ Config.blkW :=
  (Nat.mul_le_mul ha hb).trans_lt (by decide)

/-- Settles O28: the product fits `T_BLK`; of 0 both sides hold, since 0 is below `2^32`. -/
theorem pathIsSelectedByBlockSize : Obligations.PathIsSelectedByBlockSize := by
  intro s h0 h1
  have hblk := fit_toNat (mul_lt_of_le h0 h1)
  refine ⟨_, exec_iPath s, rfl, hblk, ?_⟩
  rw [hblk, pathOf_eq_small_iff, dividesTwo128_iff]
  have hpos : s.tMod0.toNat * s.tMod1.toNat ∣ 2 ^ 128 → 1 ≤ s.tMod0.toNat * s.tMod1.toNat :=
    fun hdvd => Nat.pos_of_dvd_of_pos hdvd (by decide)
  tauto

/-- Settles O29: the commit in an `I_*` phase completes `INIT`, and the key is kept up to `KEYLEN`. -/
theorem commitBuildsTheConfiguration : Obligations.CommitBuildsTheConfiguration := by
  intro s hphase
  have hinit : (committed s).phase.ofInit = true := congrArg Phase.ofInit hphase
  refine ⟨_, (exec_iCommit s).trans (congrArg _ (finish_init_ok hinit)), rfl, fun k => ?_⟩
  exact getElem_keepKey s.key s.keylen.toNat k.val k.isLt

/-! ## The micro-operations of a pass (R107, R118) -/

/-- Settles O31: both remainders are below moduli of at most `2^64`, so they fit the work registers. -/
theorem splitStartsTheForwardPass : Obligations.SplitStartsTheForwardPass := by
  intro s hpos0 hle0 hpos1 hle1 hdir
  refine ⟨_, exec_xSplit_forward hdir, rfl, ?_, ?_⟩
  · exact (fit_natMod_toNat hpos0 hle0).trans (natMod_eq hpos0)
  · exact (fit_natMod_toNat hpos1 hle1).trans ((natMod_eq hpos1).trans (congrArg (· % _) (natDiv_eq hpos0)))

/-- Settles O34: the request goes out with the active key and the block, and its answer comes in the same step. -/
theorem cipherIsCalledOnce : Obligations.CipherIsCalledOnce :=
  exec_rCiph

/-! ## Completion with an error (R151) -/

/-- The codes an `INIT` can fail with, and those a pass can fail with. -/
theorem code_of_mem_errors {p : Phase} {e : ErrCode} (h : e ∈ p.errors) :
    (p.ofInit = true → e.code = 1 ∨ e.code = 2 ∨ e.code = 6) ∧ (p.ofInit = false → e.code = 3 ∨ e.code = 4) := by
  revert h
  cases p <;> cases e <;> decide

theorem finish_of_mem_errors {s : State} {e : ErrCode} (h : e ∈ s.phase.errors) :
    finish e s = { s with
      err := e.code, lastop := if s.phase.ofInit then 1 else if s.dir = .forward then 2 else 3
      cfgValid := if s.phase.ofInit then false else s.cfgValid, phase := .idle } := by
  have hne : e ≠ .ok := fun heq => ok_not_mem_errors s.phase (heq ▸ h)
  cases hinit : s.phase.ofInit with
  | true => exact finish_init_error hinit hne
  | false => exact (finish_pass hinit).trans (by rw [opcode_eq]; rfl)

/-- Settles O40: of the four ways a micro-operation can end, only a raised error leaves `IDLE` with `ERR ≠ 0`. -/
theorem errorChangesOnlyStatus : Obligations.ErrorChangesOnlyStatus := by
  intro s t i hdec hexec hidle herr
  cases exec_microOp_cases ((decode_phaseCode s.phase i).mp hdec) hexec with
  | continues p rs hbusy _ hframe => exact absurd (hframe.phase_eq.symm.trans hidle) hbusy
  | raises e hmem ht =>
    obtain ⟨hinit, hpass⟩ := code_of_mem_errors hmem
    rw [ht]
    exact ⟨by rw [finish_of_mem_errors hmem], hinit, hpass⟩
  | joins v _ ht | commits _ ht =>
    rw [ht] at herr
    exact absurd rfl herr

end Sys2Proof.Machine
end

section
/-! A running `INIT`: every micro-operation either goes on with the invariant of R92 to R98 kept, or completes with
exactly the result of R91, in the number of micro-operations of R142. -/

namespace Sys2Proof.Machine

/-! ## The derivation, case by case (R91, R102) -/

section
variable {keylen radix width rounds : Nat}

theorem derive_of_keylen (h : keylen ∉ Config.keylens) :
    derive keylen radix width rounds = .error .invalidKeyLength :=
  if_pos h

theorem derive_of_parameters (hlen : keylen ∈ Config.keylens) (h : radix < 2 ∨ width < 1 ∨ rounds < 1) :
    derive keylen radix width rounds = .error .invalidParameters :=
  (if_neg (not_not_intro hlen)).trans (if_pos h)

theorem derive_of_over (hlen : keylen ∈ Config.keylens) (hpar : ¬(radix < 2 ∨ width < 1 ∨ rounds < 1))
    (h : Config.modMax < radix ^ halfUp width) : derive keylen radix width rounds = .error .capacityExceeded :=
  (if_neg (not_not_intro hlen)).trans ((if_neg hpar).trans (if_pos h))

theorem derive_of_legal (hlen : keylen ∈ Config.keylens) (hpar : ¬(radix < 2 ∨ width < 1 ∨ rounds < 1))
    (h : ¬Config.modMax < radix ^ halfUp width) :
    derive keylen radix width rounds = .ok {
      pw0 := halfUp width, pw1 := halfDown width, mod0 := radix ^ halfUp width, mod1 := radix ^ halfDown width
      blk := radix ^ halfUp width * radix ^ halfDown width
      path := pathOf (radix ^ halfUp width * radix ^ halfDown width) } :=
  (if_neg (not_not_intro hlen)).trans ((if_neg hpar).trans (if_neg h))

end

/-- `Derive` of the staging registers. -/
def State.derived (s : State) : Except ErrCode Derived :=
  derive s.keylen.toNat s.radix.toNat s.width.toNat s.rounds.toNat

theorem initResult_of_error {s : State} {e : ErrCode} (h : s.derived = .error e) :
    initResult s = { s with cfgValid := false, err := e.code, lastop := 1, phase := .idle } := by
  rw [State.derived] at h
  rw [initResult, h]

theorem initResult_of_ok {s : State} {d : Derived} (h : s.derived = .ok d) :
    initResult s = { s with
      aKeylen := s.keylen, aKey := keepKey s.key s.keylen.toNat
      aRadix := s.radix, aWidth := s.width, aRounds := s.rounds
      pw0 := fit Config.widthW d.pw0, pw1 := fit Config.widthW d.pw1
      mod0 := fit Config.modW d.mod0, mod1 := fit Config.modW d.mod1
      blksz := fit Config.blkW d.blk, path := d.path
      cfgValid := true, err := ErrCode.ok.code, lastop := 1, phase := .idle } := by
  rw [State.derived] at h
  rw [initResult, h]

theorem initResult_phase (s : State) : (initResult s).phase = .idle := by
  cases h : s.derived with
  | error e => rw [initResult_of_error h]
  | ok d => rw [initResult_of_ok h]

/-- `INIT` reads staging alone, so scratch does not matter to its result. -/
theorem initResult_clearScratch (s : State) : SameButScratch (initResult s.clearScratch) (initResult s) := by
  have hderived : s.clearScratch.derived = s.derived := rfl
  cases h : s.derived with
  | error e =>
    rw [initResult_of_error h, initResult_of_error (hderived.trans h)]
    rfl
  | ok d =>
    rw [initResult_of_ok h, initResult_of_ok (hderived.trans h)]
    rfl

theorem initResult_setPhase (s : State) (p : Phase) : initResult { s with phase := p } = initResult s := by
  have hderived : { s with phase := p }.derived = s.derived := rfl
  cases h : s.derived with
  | error e => rw [initResult_of_error h, initResult_of_error (hderived.trans h)]
  | ok d => rw [initResult_of_ok h, initResult_of_ok (hderived.trans h)]

theorem initResult_congr {s t : State} {p : Phase} (h : SameButScratch t { s with phase := p }) :
    SameButScratch (initResult t) (initResult s) :=
  calc (initResult t).clearScratch
      = (initResult t.clearScratch).clearScratch := (initResult_clearScratch t).symm
    _ = (initResult { s with phase := p }.clearScratch).clearScratch := by rw [h]
    _ = (initResult { s with phase := p }).clearScratch := initResult_clearScratch _
    _ = (initResult s).clearScratch := by rw [initResult_setPhase]

theorem fit_of_toNat {w v : Nat} {x : BitVec w} (h : x.toNat = v) : fit w v = x :=
  BitVec.eq_of_toNat_eq ((fit_toNat (h ▸ x.isLt)).trans h.symm)

/-! ## The invariant of `INIT`, phase by phase -/

theorem initInv_of_start {s : State} (h : s.phase.afterKeychk = false) : InitInv s := by
  cases hp : s.phase <;> simp_all [InitInv, Phase.afterKeychk, Phase.afterParchk, Phase.afterWidths]

/-- How many micro-operations a running `INIT` has behind it. -/
def initElapsed (s : State) : Nat :=
  match s.phase with
  | .iParchk => 1
  | .iWidths => 2
  | .iExp => 3 + s.cnt.toNat
  | .iPath => 4 + s.tPw0.toNat
  | .iCommit => 5 + s.tPw0.toNat
  | _ => 0

/-- R142: the number `k` of micro-operations of an `INIT` that ends with code `e`. -/
def InitCount (s : State) (e : BitVec Config.codeW) (k : Nat) : Prop :=
  (e = 1 → k = 1) ∧ (e = 2 → k = 2) ∧
  (e = 6 → ∃ j, k = 3 + j ∧ 2 ^ 64 < s.radix.toNat ^ j ∧ ∀ i < j, s.radix.toNat ^ i ≤ 2 ^ 64) ∧
  (e = 0 → k = 6 + halfUp s.width.toNat)

/-- The two ways in which a micro-operation of `INIT` can end. -/
inductive InitOutcome (s t : State) : Prop where
  | continues (p : Phase) (kind : p.ofInit = true) (frame : SameButScratch t { s with phase := p }) (inv : InitInv t)
      (count : initElapsed t = initElapsed s + 1)
  | completes (frame : SameButScratch t (initResult s)) (count : InitCount s t.err (initElapsed s + 1))

/-! ## The number of micro-operations (R142) -/

theorem initCount_keylen (s : State) : InitCount s 1 1 :=
  ⟨fun _ => rfl, fun h => absurd h (by decide), fun h => absurd h (by decide), fun h => absurd h (by decide)⟩

theorem initCount_parameters (s : State) : InitCount s 2 2 :=
  ⟨fun h => absurd h (by decide), fun _ => rfl, fun h => absurd h (by decide), fun h => absurd h (by decide)⟩

theorem initCount_capacity {s : State} {j : Nat} (hover : 2 ^ 64 < s.radix.toNat ^ j)
    (hcap : ∀ i < j, s.radix.toNat ^ i ≤ 2 ^ 64) : InitCount s 6 (3 + j) :=
  ⟨fun h => absurd h (by decide), fun h => absurd h (by decide), fun _ => ⟨j, rfl, hover, hcap⟩,
    fun h => absurd h (by decide)⟩

theorem initCount_ok (s : State) : InitCount s 0 (6 + halfUp s.width.toNat) :=
  ⟨fun h => absurd h (by decide), fun h => absurd h (by decide), fun h => absurd h (by decide), fun _ => rfl⟩

/-! ## One micro-operation of `INIT` (R92 to R100) -/

theorem initResult_of_raise {s : State} {e : ErrCode} (hinit : s.phase.ofInit = true) (he : e ≠ .ok)
    (h : s.derived = .error e) : SameButScratch (finish e s) (initResult s) := by
  rw [finish_init_error hinit he, initResult_of_error h]

theorem iKeychk_outcome {s : State} (hp : s.phase = .iKeychk) :
    ∃ t, exec .iKeychk s = .next t ∧ InitOutcome s t := by
  have hzero : initElapsed s = 0 := by rw [initElapsed, hp]
  by_cases hlen : s.keylen.toNat ∈ Config.keylens
  · have hinv : InitInv { s with phase := .iParchk } :=
      ⟨fun _ => hlen, nofun, nofun, nofun, nofun, nofun⟩
    exact ⟨_, exec_iKeychk_of_mem hlen, .continues .iParchk rfl rfl hinv (by rw [hzero]; rfl)⟩
  · refine ⟨_, exec_iKeychk_of_not_mem hlen, .completes ?_ ?_⟩
    · exact initResult_of_raise (by rw [hp]; rfl) (by decide) (derive_of_keylen hlen)
    · rw [hzero]
      exact initCount_keylen s

section
variable {s : State} (h : InitInv s)
include h

theorem iParchk_outcome (hp : s.phase = .iParchk) : ∃ t, exec .iParchk s = .next t ∧ InitOutcome s t := by
  obtain ⟨hlen, -⟩ := h
  have hlen := hlen (by rw [hp]; rfl)
  have hone : initElapsed s = 1 := by rw [initElapsed, hp]
  by_cases hpar : s.radix.toNat < 2 ∨ s.width.toNat < 1 ∨ s.rounds.toNat < 1
  · refine ⟨_, exec_iParchk_of_invalid hpar, .completes ?_ ?_⟩
    · exact initResult_of_raise (by rw [hp]; rfl) (by decide) (derive_of_parameters hlen hpar)
    · rw [hone]
      exact initCount_parameters s
  · have hlegal : 2 ≤ s.radix.toNat ∧ 1 ≤ s.width.toNat ∧ 1 ≤ s.rounds.toNat := by omega
    have hinv : InitInv { s with phase := .iWidths } :=
      ⟨fun _ => hlen, fun _ => hlegal, nofun, nofun, nofun, nofun⟩
    exact ⟨_, exec_iParchk_of_valid hpar, .continues .iWidths rfl rfl hinv (by rw [hone]; rfl)⟩

theorem iWidths_outcome (hp : s.phase = .iWidths) : ∃ t, exec .iWidths s = .next t ∧ InitOutcome s t := by
  obtain ⟨hlen, hpar, -⟩ := h
  have hlen := hlen (by rw [hp]; rfl)
  have hpar := hpar (by rw [hp]; rfl)
  have htwo : initElapsed s = 2 := by rw [initElapsed, hp]
  have hcap : (1 : BitVec Config.blkW).toNat ≤ Config.modMax := by decide
  refine ⟨_, exec_iWidths s, .continues .iExp rfl rfl ⟨fun _ => hlen, fun _ => hpar, fun _ => ?_, fun _ => ?_, nofun,
    nofun⟩ (by rw [htwo]; rfl)⟩
  · exact ⟨fit_halfUp_toNat s.width, fit_halfDown_toNat s.width⟩
  · exact ⟨rfl, hcap, Nat.zero_le _, nofun⟩

/-- From the power `T_PW[1]` on, `T_MOD[1]` holds that power of the radix (R95). -/
theorem nextTMod1_pow (hp : s.phase = .iExp) (hle : s.tPw1.toNat ≤ s.cnt.toNat) :
    (nextTMod1 s).toNat = s.radix.toNat ^ s.tPw1.toNat := by
  obtain ⟨-, -, -, hexp, -⟩ := h
  obtain ⟨hacc, hcap, -, hmod1⟩ := hexp hp
  obtain ⟨hnew, hold⟩ := nextTMod1_spec (s := s) hcap
  by_cases heq : s.cnt = s.tPw1
  · rw [hnew heq, hacc, heq]
  · have hne : s.cnt.toNat ≠ s.tPw1.toNat := fun hnat => heq (BitVec.eq_of_toNat_eq hnat)
    rw [hold heq, hmod1 (by omega)]

theorem iExp_outcome (hp : s.phase = .iExp) : ∃ t, exec .iExp s = .next t ∧ InitOutcome s t := by
  have hnext := nextTMod1_pow h hp
  obtain ⟨hlen, hpar, hwidths, hexp, -⟩ := h
  have hlen := hlen (by rw [hp]; rfl)
  have hpar := hpar (by rw [hp]; rfl)
  obtain ⟨hpw0, hpw1⟩ := hwidths (by rw [hp]; rfl)
  obtain ⟨hacc, hcap, hcnt, -⟩ := hexp hp
  have hmul : s.acc.toNat * s.radix.toNat = s.radix.toNat ^ (s.cnt.toNat + 1) := by rw [hacc, Nat.pow_succ]
  have helapsed : initElapsed s = 3 + s.cnt.toNat := by rw [initElapsed, hp]
  have hpow {i j : Nat} (hij : i ≤ j) : s.radix.toNat ^ i ≤ s.radix.toNat ^ j := Nat.pow_le_pow_right (by omega) hij
  have hhalves : s.tPw1.toNat ≤ s.tPw0.toNat := by
    rw [hpw0, hpw1]
    exact halfDown_le_halfUp _
  by_cases hover : s.cnt.toNat < s.tPw0.toNat ∧ Config.modMax < s.acc.toNat * s.radix.toNat
  · obtain ⟨hlt, hbig⟩ := hover
    rw [hmul] at hbig
    refine ⟨_, exec_iExp_of_over ⟨hlt, hmul ▸ hbig⟩, .completes ?_ ?_⟩
    · have hderive := derive_of_over (rounds := s.rounds.toNat) hlen (by omega)
        (hbig.trans_le (hpow (hpw0 ▸ hlt)))
      exact initResult_of_raise (by rw [hp]; rfl) (by decide) hderive
    · rw [helapsed, Nat.add_assoc]
      exact initCount_capacity hbig fun i hi => (hpow (Nat.le_of_lt_succ hi)).trans (hacc ▸ hcap)
  · by_cases hlast : s.cnt = s.tPw0
    · have hcnt0 : s.cnt.toNat = s.tPw0.toNat := congrArg BitVec.toNat hlast
      have hmod0 : (fit Config.modW s.acc.toNat).toNat = s.acc.toNat := fit_toNat (hcap.trans_lt (by decide))
      refine ⟨_, exec_iExp_last hlast, .continues .iPath rfl rfl ⟨fun _ => hlen, fun _ => hpar, fun _ => ⟨hpw0, hpw1⟩,
        nofun, fun _ => ?_, nofun⟩ ?_⟩
      · exact ⟨hmod0.trans (hcnt0 ▸ hacc), hnext (hhalves.trans hcnt0.ge), hmod0.le.trans hcap⟩
      · rw [helapsed, hcnt0]
        exact (Nat.succ_add 3 _)
    · have hne : s.cnt.toNat ≠ s.tPw0.toNat := fun hnat => hlast (BitVec.eq_of_toNat_eq hnat)
      have hlt : s.cnt.toNat < s.tPw0.toNat := by omega
      have hle : s.acc.toNat * s.radix.toNat ≤ Config.modMax := Nat.le_of_not_lt fun hbig => hover ⟨hlt, hbig⟩
      have hcnt' : (fit Config.widthW (s.cnt.toNat + 1)).toNat = s.cnt.toNat + 1 :=
        fit_toNat (Nat.lt_of_le_of_lt hlt s.tPw0.isLt)
      have hacc' : (fit Config.blkW (s.acc.toNat * s.radix.toNat)).toNat = s.acc.toNat * s.radix.toNat :=
        fit_toNat (hle.trans_lt (by decide))
      refine ⟨_, exec_iExp_more hlast hover, .continues .iExp rfl rfl ⟨fun _ => hlen, fun _ => hpar,
        fun _ => ⟨hpw0, hpw1⟩, fun _ => ?_, nofun, nofun⟩ ?_⟩
      · simp only [hcnt', hacc']
        exact ⟨hmul, hle, hlt, fun hdone => hnext (Nat.le_of_lt_succ hdone)⟩
      · rw [helapsed, initElapsed, hcnt', Nat.add_assoc]

theorem iPath_outcome (hp : s.phase = .iPath) : ∃ t, exec .iPath s = .next t ∧ InitOutcome s t := by
  obtain ⟨hlen, hpar, hwidths, -, hmods, -⟩ := h
  obtain ⟨hmod0, hmod1, hcap⟩ := hmods (.inl hp)
  have hpar := hpar (by rw [hp]; rfl)
  have hwidths := hwidths (by rw [hp]; rfl)
  have hle : s.tMod1.toNat ≤ s.tMod0.toNat := by
    rw [hmod0, hmod1, hwidths.1, hwidths.2]
    exact Nat.pow_le_pow_right (by omega) (halfDown_le_halfUp _)
  have hblk := fit_toNat (mul_lt_of_le hcap (hle.trans hcap))
  have helapsed : initElapsed s = 4 + s.tPw0.toNat := by rw [initElapsed, hp]
  refine ⟨_, exec_iPath s, .continues .iCommit rfl rfl ⟨fun _ => hlen (by rw [hp]; rfl), fun _ => hpar,
    fun _ => hwidths, nofun, fun _ => ⟨hmod0, hmod1, hcap⟩, fun _ => ?_⟩ ?_⟩
  · exact ⟨hblk, congrArg pathOf hblk.symm⟩
  · rw [helapsed]
    exact Nat.succ_add 4 _

/-- What `I_COMMIT` writes is what `Derive` computes. -/
theorem commit_initResult (hp : s.phase = .iCommit) : finish .ok (committed s) = initResult s := by
  obtain ⟨hlen, hpar, hwidths, -, hmods, hblk⟩ := h
  have hlen := hlen (by rw [hp]; rfl)
  have hpar := hpar (by rw [hp]; rfl)
  obtain ⟨hpw0, hpw1⟩ := hwidths (by rw [hp]; rfl)
  obtain ⟨hmod0, hmod1, hcap⟩ := hmods (.inr hp)
  obtain ⟨hblk, hpath⟩ := hblk hp
  rw [hpw0] at hmod0
  rw [hpw1] at hmod1
  rw [hmod0] at hcap hblk
  rw [hmod1] at hblk
  have hinit : (committed s).phase.ofInit = true := congrArg Phase.ofInit hp
  have hderived : s.derived = _ := derive_of_legal hlen (by omega) (Nat.not_lt_of_le hcap)
  rw [finish_init_ok hinit, initResult_of_ok hderived, fit_of_toNat hpw0, fit_of_toNat hpw1,
    fit_of_toNat hmod0, fit_of_toNat hmod1, fit_of_toNat hblk, ← hblk, ← hpath]
  rfl

theorem iCommit_outcome (hp : s.phase = .iCommit) : ∃ t, exec .iCommit s = .next t ∧ InitOutcome s t := by
  refine ⟨_, exec_iCommit s, .completes (congrArg _ (commit_initResult h hp)) ?_⟩
  obtain ⟨-, -, hwidths, -⟩ := h
  obtain ⟨hpw0, -⟩ := hwidths (by rw [hp]; rfl)
  have helapsed : initElapsed s + 1 = 6 + halfUp s.width.toNat := by
    rw [initElapsed, hp, ← hpw0]
    exact Nat.add_right_comm 5 _ 1
  rw [helapsed]
  exact initCount_ok s

/-- Every micro-operation of a running `INIT` goes on with the invariant or completes with the result of R91. -/
theorem exec_init_outcome (hinit : s.phase.ofInit = true) {i : Instr} (hi : microOp s.phase = some i) :
    ∃ t, exec i s = .next t ∧ InitOutcome s t := by
  cases hp : s.phase <;> rw [hp] at hi hinit <;> cases hi
  case iKeychk => exact iKeychk_outcome hp
  case iParchk => exact iParchk_outcome h hp
  case iWidths => exact iWidths_outcome h hp
  case iExp => exact iExp_outcome h hp
  case iPath => exact iPath_outcome h hp
  case iCommit => exact iCommit_outcome h hp
  all_goals exact absurd hinit (by decide)

theorem initElapsed_lt : initElapsed s < 6 + halfUp s.width.toNat := by
  obtain ⟨-, -, hwidths, hexp, -⟩ := h
  unfold initElapsed
  split
  case h_3 hp =>
    obtain ⟨hpw0, -⟩ := hwidths (by rw [hp]; rfl)
    obtain ⟨-, -, hcnt, -⟩ := hexp hp
    omega
  case h_4 hp | h_5 hp =>
    obtain ⟨hpw0, -⟩ := hwidths (by rw [hp]; rfl)
    omega
  all_goals omega

end

/-! ## The whole command (R91, R142) -/

/-- From any of its phases, and while the host waits, `INIT` runs to the result of R91 in the steps that are left. -/
theorem init_runsTo (n : Nat) {s : State} (h : InitInv s) (hinit : s.phase.ofInit = true) (hw : HostWaits s.host)
    (hn : initElapsed s + n = 6 + halfUp s.width.toNat) :
    ∃ k t, RunsTo k s t ∧ SameButScratch t (initResult s) ∧ InitCount s t.err (initElapsed s + k) := by
  induction n generalizing s with
  | zero =>
    have hlt := initElapsed_lt h
    omega
  | succ n ih =>
    obtain ⟨i, hi⟩ := microOp_busy (p := s.phase) (by rintro hidle; rw [hidle] at hinit; contradiction)
    obtain ⟨t, hexec, hout⟩ := exec_init_outcome h hinit hi
    cases hout with
    | completes hframe hcount => exact ⟨1, t, runsTo_one ((step_microOp hi hw).trans hexec), hframe, hcount⟩
    | continues p hkind hframe hinv hcount =>
      have hphase : t.phase = p := hframe.phase_eq
      have hhost : t.host = s.host := hframe.host_eq
      obtain ⟨⟨(hradix : t.radix = s.radix), (hwidth : t.width = s.width), -⟩, -⟩ :=
        (sameButScratch_iff _ _).mp hframe
      obtain ⟨k, u, hrun, hresult, hsteps⟩ := ih hinv (hphase ▸ hkind) (hhost ▸ hw) (by rw [hwidth]; omega)
      rw [InitCount, hradix, hwidth, hcount, Nat.add_right_comm] at hsteps
      exact ⟨k + 1, u, runsTo_microOp i hi hw hexec hrun, hresult.trans (initResult_congr hframe), hsteps⟩

/-- Settles O41: at its acceptance `INIT` has no micro-operation behind it. -/
theorem initComputesTheDerivation : Obligations.InitComputesTheDerivation := by
  intro s hphase hhost
  have hzero : initElapsed s = 0 := by rw [initElapsed, hphase]
  obtain ⟨k, t, hrun, hresult, hcount⟩ := init_runsTo (6 + halfUp s.width.toNat)
    (initInv_of_start (by rw [hphase]; rfl)) (by rw [hphase]; rfl) (hhost ▸ hostWaits_nil) (by rw [hzero]; omega)
  rw [hzero, Nat.zero_add] at hcount
  exact ⟨k, t, hrun, hresult, hcount⟩

end Sys2Proof.Machine
end

section
/-! The invariant of reachable states, and the number of micro-operations that a running command still needs: every step
keeps the one, and every micro-operation counts the other down (R44, R95, R133, R134, R142). -/

namespace Sys2Proof.Machine

/-! ## States without a running micro-operation -/

theorem passInv_of_start {s : State} (h : s.phase.afterCheck = false) : PassInv s := by
  cases hp : s.phase <;> simp_all [PassInv, Phase.afterCheck, Phase.afterSplit, Phase.inRound]

/-- Before the first check of a command, and in `IDLE`, only the configuration and the error code are constrained. -/
theorem inv_of_start {s : State} (hconfig : ConfigInv s) (hinit : s.phase.afterKeychk = false)
    (hpass : s.phase.afterCheck = false) (herr : s.err.toNat ≤ 6) : Inv s :=
  ⟨hconfig, initInv_of_start hinit, passInv_of_start hpass, herr⟩

theorem inv_of_idle {s : State} (hconfig : ConfigInv s) (hidle : s.phase = .idle) (herr : s.err.toNat ≤ 6) : Inv s :=
  inv_of_start hconfig (by rw [hidle]; rfl) (by rw [hidle]; rfl) herr

/-- Settles O51: no engine, no command, no error. -/
theorem invariantHoldsAtReset : Obligations.InvariantHoldsAtReset :=
  inv_of_idle nofun rfl (Nat.zero_le 6)

/-! ## The rounds of a pass (R38, R133, R134) -/

/-- The state as at the start of its round, with a silent host: what the invariant of a round speaks of. -/
def State.atPack (s : State) : State := { s with phase := .rPack, host := [] }

theorem afterCheck_of_afterSplit {p : Phase} (h : p.afterSplit = true) : p.afterCheck = true := by
  revert h
  cases p <;> decide

theorem afterSplit_of_inRound {p : Phase} (h : p.inRound = true) : p.afterSplit = true := by
  revert h
  cases p <;> decide

theorem modulus_le {c : Cfg} (h : c.Legal) (i : Half) : c.modulus i ≤ 2 ^ 64 := by
  cases i
  · exact h.mod0_le
  · exact h.mod1_le

theorem Inv.engine {s : State} (h : Inv s) (hp : s.phase.afterCheck = true) :
    s.cfgValid = true ∧ s.din.toNat < s.blksz.toNat := by
  obtain ⟨-, -, ⟨hcheck, -⟩, -⟩ := h
  exact hcheck hp

theorem Inv.legal {s : State} (h : Inv s) (hp : s.phase.afterCheck = true) : s.cfg.Legal :=
  cfg_legal h.config (h.engine hp).1

theorem Inv.roundStart {s : State} (h : Inv s) (hround : s.phase.inRound = true) : RoundStart s.atPack := by
  have hsplit := afterSplit_of_inRound hround
  have hlegal := h.legal (afterCheck_of_afterSplit hsplit)
  obtain ⟨-, -, ⟨-, hwork, hrnd, -⟩, -⟩ := h
  obtain ⟨hlo, hhi, hto⟩ := hwork hsplit
  obtain ⟨hlt, hfrom⟩ := hrnd hround
  exact ⟨rfl, hostWaits_nil, modulus_le hlegal, Pair.inRange_iff.mpr ⟨hlo, hhi⟩, hfrom, hto, hlt⟩

theorem passInv_of_roundStart {s : State} (h : RoundStart s.atPack)
    (hengine : s.cfgValid = true ∧ s.din.toNat < s.blksz.toNat)
    (hdelta : s.phase = .rMix → s.delta.toNat < (s.modulus s.toIdx).toNat) : PassInv s :=
  ⟨fun _ => hengine, fun _ => ⟨h.range .lo, h.range .hi, h.toIdx⟩, fun _ => ⟨h.rnd, h.fromIdx⟩, hdelta⟩

/-! ## The micro-operations that a pass still needs (R142) -/

/-- The rounds from the present one to the last. -/
def roundsLeft (s : State) : Nat :=
  match s.dir with
  | .forward => s.aRounds.toNat - s.rnd.toNat
  | .inverse => s.rnd.toNat + 1

/-- The micro-operations from the present one to the end of the pass, at most. -/
def passLeft (s : State) : Nat :=
  match s.phase with
  | .xCheck => 3 + 5 * s.aRounds.toNat
  | .xSplit => 2 + 5 * s.aRounds.toNat
  | .rPack => 1 + 5 * roundsLeft s
  | .rCiph => 5 * roundsLeft s
  | .rUnpack => 5 * roundsLeft s - 1
  | .rReduce => 5 * roundsLeft s - 2
  | .rMix => 5 * roundsLeft s - 3
  | _ => 1

theorem RoundStart.roundsLeft_pos {s : State} (h : RoundStart s.atPack) : 1 ≤ roundsLeft s := by
  have hlt : s.rnd.toNat < s.aRounds.toNat := h.rnd
  unfold roundsLeft
  split <;> omega

/-- What a micro-operation of a pass that does not end it keeps and counts. -/
structure PassGoesOn (s t : State) : Prop where
  inv : PassInv t
  left : passLeft t < passLeft s

theorem xCheck_goesOn {s : State} (hp : s.phase = .xCheck) :
    ∃ t, exec .xCheck s = .next t ∧ (t.phase = .idle ∨ PassGoesOn s t) := by
  by_cases hvalid : s.cfgValid = true
  · rw [exec_xCheck_of_engine hvalid]
    by_cases hrange : s.blksz.toNat ≤ s.din.toNat
    · rw [if_pos hrange]
      exact ⟨_, rfl, .inl rfl⟩
    · rw [if_neg hrange]
      have hengine := And.intro hvalid (Nat.lt_of_not_le hrange)
      refine ⟨_, rfl, .inr ⟨⟨fun _ => hengine, nofun, nofun, nofun⟩, ?_⟩⟩
      simp only [passLeft, hp]
      omega
  · exact ⟨_, exec_xCheck_of_no_engine (Bool.eq_false_iff.mpr hvalid), .inl rfl⟩

section
variable {s : State} (h : Inv s)
include h

theorem xSplit_goesOn (hp : s.phase = .xSplit) :
    ∃ t, exec .xSplit s = .next t ∧ (t.phase = .idle ∨ PassGoesOn s t) := by
  have hengine := h.engine (by rw [hp]; rfl)
  have hlegal := h.legal (by rw [hp]; rfl)
  have hrounds : 1 ≤ s.aRounds.toNat := hlegal.rounds_pos
  have hstart {r : BitVec Config.roundsW} (hr : r.toNat < s.aRounds.toNat) : PassInv (splitAt s r) :=
    passInv_of_roundStart (splitAt_roundStart (s := { s with host := [] }) hlegal hostWaits_nil hr) hengine nofun
  cases hdir : s.dir with
  | forward =>
    refine ⟨_, exec_xSplit_forward hdir, .inr ⟨hstart hrounds, ?_⟩⟩
    simp only [passLeft, hp, splitAt, roundsLeft, hdir]
    omega
  | inverse =>
    have hr := fit_pred_toNat s.aRounds
    refine ⟨_, exec_xSplit_inverse_splitAt hdir hrounds, .inr ⟨hstart (by omega), ?_⟩⟩
    simp only [passLeft, hp, splitAt, roundsLeft, hdir, hr]
    omega

/-- In a round, the cipher's buffers and what is computed from them are free, but for the bound on `DELTA` at
`R_MIX`. -/
theorem passInv_of_buffers (hround : s.phase.inRound = true) (p : Phase) (pt ct : Block) (raw : BitVec Config.rawW)
    (delta : BitVec Config.workW) (rs : List CipherRequest)
    (hdelta : p = .rMix → delta.toNat < (s.modulus s.toIdx).toNat) :
    PassInv { s with ptbuf := pt, ctbuf := ct, raw := raw, delta := delta, requests := rs, phase := p } :=
  have hs := h.roundStart hround
  passInv_of_roundStart ⟨rfl, hostWaits_nil, hs.capacity, hs.range, hs.fromIdx, hs.toIdx, hs.rnd⟩
    (h.engine (afterCheck_of_afterSplit (afterSplit_of_inRound hround))) hdelta

theorem rPack_goesOn (hp : s.phase = .rPack) : ∃ t, exec .rPack s = .next t ∧ PassGoesOn s t := by
  refine ⟨_, exec_rPack s, passInv_of_buffers h (by rw [hp]; rfl) .rCiph _ s.ctbuf s.raw s.delta s.requests nofun, ?_⟩
  rw [passLeft, passLeft, hp]
  exact Nat.lt_add_of_pos_left Nat.one_pos

theorem rCiph_goesOn (hp : s.phase = .rCiph) : ∃ t, exec .rCiph s = .next t ∧ PassGoesOn s t := by
  have hround : s.phase.inRound = true := by rw [hp]; rfl
  have hpos := (h.roundStart hround).roundsLeft_pos
  refine ⟨_, exec_rCiph s, passInv_of_buffers h hround .rUnpack s.ptbuf _ s.raw s.delta _ nofun, ?_⟩
  rw [passLeft, passLeft, hp]
  exact Nat.sub_lt (Nat.mul_pos (by decide) hpos) Nat.one_pos

theorem rUnpack_goesOn (hp : s.phase = .rUnpack) : ∃ t, exec .rUnpack s = .next t ∧ PassGoesOn s t := by
  have hround : s.phase.inRound = true := by rw [hp]; rfl
  have hpos := (h.roundStart hround).roundsLeft_pos
  refine ⟨_, exec_rUnpack s, passInv_of_buffers h hround .rReduce s.ptbuf s.ctbuf _ s.delta s.requests nofun, ?_⟩
  rw [passLeft, passLeft, hp]
  exact show 5 * roundsLeft s - 2 < 5 * roundsLeft s - 1 by omega

theorem rReduce_goesOn (hp : s.phase = .rReduce) : ∃ t, exec .rReduce s = .next t ∧ PassGoesOn s t := by
  have hround : s.phase.inRound = true := by rw [hp]; rfl
  have hs := h.roundStart hround
  have hpos := hs.roundsLeft_pos
  have hmod : 1 ≤ (s.modulus s.toIdx).toNat := State.cfg_modulus s s.toIdx ▸ Nat.zero_lt_of_lt hs.work_lt
  have hcap : (s.modulus s.toIdx).toNat ≤ 2 ^ 64 := State.cfg_modulus s s.toIdx ▸ hs.capacity s.toIdx
  have hdelta := (fit_natMod_toNat (a := s.raw.toNat) hmod hcap).trans_lt (natMod_lt hmod)
  refine ⟨_, exec_rReduce s, passInv_of_buffers h hround .rMix s.ptbuf s.ctbuf s.raw _ s.requests fun _ => hdelta, ?_⟩
  rw [passLeft, passLeft, hp]
  exact show 5 * roundsLeft s - 3 < 5 * roundsLeft s - 2 by omega

omit h in
theorem afterMix_cfg (s : State) : (afterMix s).cfg = s.cfg := (afterMix_frame s).cfg_eq

/-- Mixing keeps the work values below their moduli (R133) and the indices apart (R134). -/
theorem afterMix_range (hp : s.phase = .rMix) :
    (afterMix s).pair.InRange (afterMix s).cfg ∧ (afterMix s).toIdx = (afterMix s).fromIdx.other := by
  have hs := h.roundStart (by rw [hp]; rfl)
  have hto : s.toIdx = s.fromIdx.other := hs.toIdx
  obtain ⟨-, -, ⟨-, -, -, hdelta⟩, -⟩ := h
  have hdelta := hdelta hp
  rw [← State.cfg_modulus] at hdelta
  have hmixed : (mixedWork s).toNat < s.cfg.modulus s.toIdx := by
    have hlt := mixValue_lt s.dir hs.work_lt hdelta
    rw [mixedWork, ← State.cfg_modulus]
    exact (fit_toNat (hlt.trans_le (hs.capacity s.toIdx))).trans_lt hlt
  constructor
  · rw [afterMix_cfg, show (afterMix s).pair = s.pair.put s.toIdx (mixedWork s).toNat from pair_setWork ..]
    exact hs.range.put hmixed
  · exact (other_other _).symm.trans (congrArg Half.other hto.symm)

omit h in
theorem afterMix_engine (s : State) :
    (afterMix s).cfgValid = s.cfgValid ∧ (afterMix s).din = s.din ∧ (afterMix s).blksz = s.blksz ∧
      (afterMix s).dir = s.dir ∧ (afterMix s).aRounds = s.aRounds :=
  ⟨setWork_cfgValid .., setWork_din .., setWork_blksz .., setWork_dir .., setWork_aRounds ..⟩

theorem passInv_of_last (hp : s.phase = .rMix) (hlast : lastRound s = true) : PassInv (afterMix s) := by
  have hphase : (afterMix s).phase = .xJoin := if_pos hlast
  have hengine := h.engine (by rw [hp]; rfl)
  obtain ⟨hvalid, hdin, hblksz, -⟩ := afterMix_engine s
  obtain ⟨hrange, hindices⟩ := afterMix_range h hp
  rw [← hvalid, ← hdin, ← hblksz] at hengine
  rw [PassInv, hphase]
  exact ⟨fun _ => hengine, fun _ => ⟨hrange .lo, hrange .hi, hindices⟩, nofun, nofun⟩

/-- After a round that is not the last, the next one has the other parity and is below `aROUNDS`. -/
theorem passInv_of_more (hp : s.phase = .rMix) (hmore : lastRound s = false) : PassInv (afterMix s) := by
  have hphase : (afterMix s).phase = .rPack := if_neg (ne_true_of_eq_false hmore)
  have hrnd : (afterMix s).rnd = nextRound s := if_neg (ne_true_of_eq_false hmore)
  have hs := h.roundStart (by rw [hp]; rfl)
  have hto : s.toIdx = (Half.ofParity s.rnd.toNat).other := hs.toIdx.trans (congrArg Half.other hs.fromIdx)
  have hengine := h.engine (by rw [hp]; rfl)
  obtain ⟨hvalid, hdin, hblksz, -, hrounds⟩ := afterMix_engine s
  obtain ⟨hrange, hindices⟩ := afterMix_range h hp
  obtain ⟨hparity, hlt⟩ : Half.ofParity (nextRound s).toNat = (Half.ofParity s.rnd.toNat).other ∧
      (nextRound s).toNat < s.aRounds.toNat := hs.nextRound_spec hmore
  rw [← hvalid, ← hdin, ← hblksz] at hengine
  rw [← hrnd] at hparity
  rw [← hrnd, ← hrounds] at hlt
  have hcapacity (i : Half) : (afterMix s).cfg.modulus i ≤ 2 ^ 64 := by
    rw [afterMix_cfg]
    exact hs.capacity i
  exact passInv_of_roundStart ⟨rfl, hostWaits_nil, hcapacity, hrange, hto.trans hparity.symm, hindices, hlt⟩ hengine
    (by rw [hphase]; exact nofun)

omit h in
theorem roundsLeft_afterMix {s : State} (hmore : lastRound s = false) (hlt : s.rnd.toNat < s.aRounds.toNat) :
    roundsLeft (afterMix s) + 1 = roundsLeft s := by
  have hrnd : (afterMix s).rnd = nextRound s := if_neg (ne_true_of_eq_false hmore)
  obtain ⟨-, -, -, hdir, hrounds⟩ := afterMix_engine s
  rw [Bool.eq_false_iff] at hmore
  rw [roundsLeft, roundsLeft, hdir, hrnd, hrounds]
  cases hd : s.dir with
  | forward =>
    have hne := mt (lastRound_forward hd).mpr hmore
    rw [nextRound_forward_toNat hd hlt]
    dsimp only
    omega
  | inverse =>
    have hne := mt (lastRound_inverse hd).mpr hmore
    rw [nextRound_inverse_toNat hd hne]
    dsimp only
    omega

theorem rMix_goesOn (hp : s.phase = .rMix) : ∃ t, exec .rMix s = .next t ∧ PassGoesOn s t := by
  have hs := h.roundStart (by rw [hp]; rfl)
  have hpos := hs.roundsLeft_pos
  have hleft : passLeft s = 5 * roundsLeft s - 3 := by rw [passLeft, hp]
  cases hlast : lastRound s with
  | true =>
    have hphase : (afterMix s).phase = .xJoin := if_pos hlast
    refine ⟨afterMix s, exec_rMix s, passInv_of_last h hp hlast, ?_⟩
    rw [hleft, passLeft, hphase]
    dsimp only
    omega
  | false =>
    have hphase : (afterMix s).phase = .rPack := if_neg (ne_true_of_eq_false hlast)
    have hcount := roundsLeft_afterMix hlast hs.rnd
    refine ⟨afterMix s, exec_rMix s, passInv_of_more h hp hlast, ?_⟩
    rw [hleft, passLeft, hphase]
    dsimp only
    omega

/-- Every micro-operation of a running pass ends it, or keeps the invariant and counts down. -/
theorem exec_pass_outcome (hpass : s.phase.ofInit = false) {i : Instr} (hi : microOp s.phase = some i) :
    ∃ t, exec i s = .next t ∧ (t.phase = .idle ∨ PassGoesOn s t) := by
  cases hp : s.phase <;> rw [hp] at hi hpass <;> cases hi
  case xCheck => exact xCheck_goesOn hp
  case xSplit => exact xSplit_goesOn h hp
  case rPack => exact (rPack_goesOn h hp).imp fun _ => .imp_right .inr
  case rCiph => exact (rCiph_goesOn h hp).imp fun _ => .imp_right .inr
  case rUnpack => exact (rUnpack_goesOn h hp).imp fun _ => .imp_right .inr
  case rReduce => exact (rReduce_goesOn h hp).imp fun _ => .imp_right .inr
  case rMix => exact (rMix_goesOn h hp).imp fun _ => .imp_right .inr
  case xJoin => exact ⟨_, rfl, .inl rfl⟩
  all_goals exact absurd hpass (by decide)

end

/-! ## The step (R44) -/

/-- The two moduli multiply to the block size (R98). -/
theorem pow_halves (radix width : Nat) : radix ^ halfUp width * radix ^ halfDown width = radix ^ width := by
  rw [← Nat.pow_add, halfUp_add_halfDown]

/-- A successful `INIT` leaves what `Derive` computes from legal parameters (R44, R100). -/
theorem configInv_committed {s : State} (h : InitInv s) (hp : s.phase = .iCommit) :
    ConfigInv (finish .ok (committed s)) := by
  obtain ⟨hlen, hpar, hwidths, -, hmods, hblk⟩ := h
  obtain ⟨hradix, hwidth, hrounds⟩ := hpar (by rw [hp]; rfl)
  obtain ⟨hpw0, hpw1⟩ := hwidths (by rw [hp]; rfl)
  obtain ⟨hmod0, hmod1, hcap⟩ := hmods (.inr hp)
  obtain ⟨hblk, hpath⟩ := hblk hp
  have hpower : s.tBlk.toNat = s.radix.toNat ^ s.width.toNat := by
    rw [hblk, hmod0, hmod1, hpw0, hpw1, pow_halves]
  exact fun _ => ⟨hlen (by rw [hp]; rfl), hradix, hwidth, hrounds, hpw0, hpw1, hmod0, hcap, hmod1, hblk, hpower, hpath⟩

/-- Completing a command keeps the configuration invariant: a failed `INIT` leaves no engine. -/
theorem configInv_finish {s : State} (e : ErrCode) (h : ConfigInv s) : ConfigInv (finish e s) := by
  intro hvalid
  rw [finish_cfgValid] at hvalid
  split at hvalid
  · contradiction
  · exact h hvalid

theorem inv_finish {s : State} (e : ErrCode) (h : ConfigInv s) : Inv (finish e s) :=
  inv_of_idle (configInv_finish e h) rfl (code_le e)

/-- Every micro-operation keeps the invariant. -/
theorem inv_microOp {s t : State} {i : Instr} (h : Inv s) (hi : microOp s.phase = some i) (hexec : exec i s = .next t) :
    Inv t := by
  cases exec_microOp_cases hi hexec with
  | raises e _ ht => exact ht ▸ inv_finish e h.config
  | joins v _ ht => exact ht ▸ inv_finish .ok h.config
  | commits hp ht => exact ht ▸ inv_of_idle (configInv_committed h.init hp) rfl (Nat.zero_le 6)
  | continues p rs hbusy hkind hframe =>
    have hphase : t.phase = p := hframe.phase_eq
    obtain ⟨-, -, ⟨-, herr, -⟩, -⟩ := (sameButScratch_iff _ _).mp hframe
    have hstatus : t.err.toNat ≤ 6 := herr ▸ h.status
    have hconfig : ConfigInv t := hframe.configInv h.config
    cases hinit : s.phase.ofInit with
    | true =>
      rw [hinit] at hkind
      obtain ⟨u, hu, hout⟩ := exec_init_outcome h.init hinit hi
      obtain rfl := Host.Outcome.next.inj (hu.symm.trans hexec)
      cases hout with
      | continues _ _ _ hinv =>
        exact ⟨hconfig, hinv, passInv_of_start (by rw [hphase]; revert hkind; cases p <;> decide), hstatus⟩
      | completes hresult => exact absurd (hphase.symm.trans (hresult.phase_eq.trans (initResult_phase s))) hbusy
    | false =>
      rw [hinit] at hkind
      obtain ⟨u, hu, hout⟩ := exec_pass_outcome h hinit hi
      obtain rfl := Host.Outcome.next.inj (hu.symm.trans hexec)
      obtain hidle | hgoes := hout
      · exact absurd (hphase.symm.trans hidle) hbusy
      · exact ⟨hconfig, initInv_of_start (by rw [hphase]; revert hkind; cases p <;> decide), hgoes.inv, hstatus⟩

/-- The host's transactions and the records are outside the invariant. -/
theorem Inv.setRecords {s : State} (h : Inv s) (es : List HostEvent) (rs : List (WordIndex × BusWord)) :
    Inv { s with host := es, reads := rs } :=
  ⟨h.config, h.init, h.pass, h.status⟩

theorem inv_command {d : BusWord} {s t : State} (h : Inv s) (hexec : exec (decodeCommand d) s = .next t) : Inv t := by
  obtain ⟨hidle, hout⟩ | ⟨-, rfl⟩ := exec_command_cases hexec
  · cases hout with
    | nothing => exact h
    | startsInit => exact inv_of_start h.config rfl rfl h.status
    | startsPass dir => exact inv_of_start h.config rfl rfl h.status
    | isIllegal op => exact inv_of_idle h.config hidle (code_le .illegalCommand)
  · exact h

/-- A write changes an operand register of an idle engine, which no invariant speaks of, or nothing. -/
theorem inv_busWrite {s : State} (h : Inv s) (wa : WordIndex) (d : BusWord) : Inv (busWrite wa d s) := by
  by_cases hidle : s.phase = .idle
  · rw [busWrite_idle wa d hidle, writeRegister_frame]
    exact inv_of_idle h.config hidle h.status
  · rwa [busWrite_busy wa d hidle]

/-- Settles O52: the sequencer's micro-operations and each of the host's transactions keep the invariant. -/
theorem everyStepKeepsTheInvariant : Obligations.EveryStepKeepsTheInvariant := by
  intro s t h hstep
  obtain ⟨-, -, rfl⟩ | ⟨i, hi, -, hexec⟩ | ⟨e, rest, -, -, hmove⟩ := step_cases hstep
  · exact h
  · exact inv_microOp (h.setRecords (countGap s.host) s.reads) hi hexec
  · have hrest := h.setRecords rest s.reads
    obtain ⟨wa, -, rfl⟩ | ⟨d, -, hexec⟩ | ⟨wa, d, -, -, rfl⟩ | ⟨-, rfl⟩ | ⟨-, rfl⟩ := hmove
    · exact hrest.setRecords rest _
    · exact inv_command hrest hexec
    · exact inv_busWrite hrest wa d
    · exact hrest.setRecords rest _
    · exact inv_of_idle nofun rfl (Nat.zero_le 6)

/-! ## Completion (R142, R170) -/

/-- The micro-operations that the running command still needs, at most. -/
def commandLeft (s : State) : Nat :=
  if s.phase.ofInit then 6 + halfUp s.width.toNat - initElapsed s else passLeft s

/-- R142: the longest command is a pass of `2^32 - 1` rounds. -/
theorem commandLeft_le (s : State) : commandLeft s ≤ 2 + 5 * 2 ^ 32 := by
  have hwidth := halfUp_le s.width
  have hrnd : s.rnd.toNat < 2 ^ 32 := s.rnd.isLt
  have hrounds : s.aRounds.toNat < 2 ^ 32 := s.aRounds.isLt
  have hleft : roundsLeft s ≤ 2 ^ 32 := by
    unfold roundsLeft
    split <;> omega
  unfold commandLeft
  split
  · omega
  · unfold passLeft
    split <;> omega

/-- A micro-operation completes the command or counts it down. -/
theorem commandLeft_lt {s t : State} {i : Instr} (h : Inv s) (hi : microOp s.phase = some i)
    (hexec : exec i s = .next t) : t.phase = .idle ∨ commandLeft t < commandLeft s := by
  cases exec_microOp_cases hi hexec with
  | raises _ _ ht | joins _ _ ht | commits _ ht => exact .inl (ht ▸ rfl)
  | continues p rs hbusy hkind hframe =>
    have hphase : t.phase = p := hframe.phase_eq
    obtain ⟨⟨-, (hwidth : t.width = s.width), -⟩, -⟩ := (sameButScratch_iff _ _).mp hframe
    rw [commandLeft, commandLeft, hphase, hkind, hwidth]
    cases hinit : s.phase.ofInit with
    | true =>
      obtain ⟨u, hu, hout⟩ := exec_init_outcome h.init hinit hi
      obtain rfl := Host.Outcome.next.inj (hu.symm.trans hexec)
      cases hout with
      | continues _ _ _ _ hcount =>
        have hlt := initElapsed_lt h.init
        simp only [if_true]
        omega
      | completes hresult => exact absurd (hphase.symm.trans (hresult.phase_eq.trans (initResult_phase s))) hbusy
    | false =>
      obtain ⟨u, hu, hout⟩ := exec_pass_outcome h hinit hi
      obtain rfl := Host.Outcome.next.inj (hu.symm.trans hexec)
      exact .inr (hout.resolve_left fun hidle => hbusy (hphase.symm.trans hidle)).left

/-- While the host is silent, a running command completes before its count is used up. -/
theorem runsTo_idle {s : State} (h : Inv s) (hhost : s.host = []) :
    ∃ k t, k ≤ commandLeft s + 1 ∧ RunsTo k s t ∧ t.phase = .idle := by
  induction hn : commandLeft s using Nat.strong_induction_on generalizing s with
  | _ n ih =>
    by_cases hidle : s.phase = .idle
    · exact ⟨0, s, Nat.zero_le _, (runsTo_zero s s).mpr rfl, hidle⟩
    · obtain ⟨i, hi⟩ := microOp_busy hidle
      obtain ⟨t, hexec, hout⟩ := exec_microOp s hi
      have hw : HostWaits s.host := hhost ▸ hostWaits_nil
      obtain ⟨hhost', -⟩ := hout.host_reads
      obtain hdone | hlt := commandLeft_lt h hi hexec
      · exact ⟨1, t, Nat.succ_le_succ (Nat.zero_le n), runsTo_one ((step_microOp hi hw).trans hexec), hdone⟩
      · obtain ⟨k, u, hk, hrun, hdone⟩ := ih _ (hn ▸ hlt) (inv_microOp h hi hexec) (hhost'.trans hhost) rfl
        exact ⟨k + 1, u, by omega, runsTo_microOp i hi hw hexec hrun, hdone⟩

/-- Settles O58: the count of what a command still needs is at most that of the longest command. -/
theorem everyCommandCompletes : Obligations.EveryCommandCompletes := by
  intro s h hhost
  obtain ⟨k, t, hk, hrun, hidle⟩ := runsTo_idle h hhost
  have hle := commandLeft_le s
  exact ⟨k, t, by omega, hrun, hidle⟩

/-! ## A pass from its acceptance (R116, R127, R142) -/

/-- Settles O42: the check completes a pass without an engine or out of range, and the whole pass runs otherwise. -/
theorem passComputesItsFunction : Obligations.PassComputesItsFunction := by
  rintro s dir h hphase rfl hhost
  have hw : HostWaits s.host := hhost ▸ hostWaits_nil
  have hpass : s.phase.ofInit = false := by rw [hphase]; rfl
  have hi : microOp s.phase = some .xCheck := by rw [hphase]; rfl
  by_cases hvalid : s.cfgValid = true
  · by_cases hrange : s.blksz.toNat ≤ s.din.toNat
    · have hcheck : step s = raiseError .outOfRange s := by
        rw [step_microOp hi hw, exec_xCheck_of_engine hvalid, if_pos hrange]
      refine ⟨_, ?_, fun _ => runsTo_one hcheck, fun _ hlt => absurd hrange (Nat.not_le_of_lt hlt)⟩
      rw [finish_pass hpass, passResult, if_neg (by rw [hvalid]; decide), if_pos hrange]
    · obtain ⟨t, hrun, hresult⟩ := pass_runsTo hphase hw (cfg_legal h.config hvalid) hvalid (Nat.lt_of_not_le hrange)
      refine ⟨t, hresult, fun herror => ?_, fun _ _ => hrun⟩
      exact absurd herror (not_or.mpr ⟨by rw [hvalid]; decide, hrange⟩)
  · have hnone : s.cfgValid = false := Bool.eq_false_iff.mpr hvalid
    have hcheck : step s = raiseError .notConfigured s := (step_microOp hi hw).trans (exec_xCheck_of_no_engine hnone)
    refine ⟨_, ?_, fun _ => runsTo_one hcheck, fun hyes => absurd hyes hvalid⟩
    rw [finish_pass hpass, passResult, if_pos hnone]

end Sys2Proof.Machine
end

section
/-! The permutation as a function: its inverse, its requests, the path it takes and its edge configurations (R61, R99,
R125, R131, R136); and the derivation of its parameters (R29, R96, R97, R98). -/

namespace Sys2Proof.Machine

/-- Settles O45: each direction undoes the other. -/
theorem decryptInvertsEncrypt : Obligations.DecryptInvertsEncrypt := by
  intro cipher c h0 h1 m hm
  exact ⟨passValue_undo cipher h0 h1 (dir := .forward) (dir' := .inverse) (by decide) hm,
    passValue_undo cipher h0 h1 (dir := .inverse) (dir' := .forward) (by decide) hm⟩

/-! ## The requests of a pass (R61) -/

/-- A request carries the key, and its round number in bytes 0 to 7. -/
structure IsRequestOf (c : Cfg) (r : Nat) (req : CipherRequest) : Prop where
  key : req.key = c.key
  round : fromLE (req.pt.toList.take 8) = r

theorem isRequestOf_roundRequest (c : Cfg) {r : Nat} (hr : r < 2 ^ 64) (p : Pair) :
    IsRequestOf c r (roundRequest c r p) where
  key := rfl
  round := by
    rw [roundRequest, take_packBlock, fromLE_leBytes]
    exact Nat.mod_eq_of_lt hr

section
variable (cipher : Cipher) (c : Cfg)

theorem length_forwardRequests (n : Nat) (p : Pair) : (forwardRequests cipher c n p).length = n := by
  induction n with
  | zero => rfl
  | succ n ih => rw [forwardRequests, List.length_append, ih, List.length_singleton]

theorem length_inverseRequests (n : Nat) (p : Pair) : (inverseRequests cipher c n p).length = n := by
  induction n generalizing p with
  | zero => rfl
  | succ n ih => rw [inverseRequests, List.length_cons, ih]

/-- Forward, request `k` is that of round `k`. -/
theorem forwardRequests_getElem? {n : Nat} (hn : n ≤ 2 ^ 64) (p : Pair) {k : Nat} {req : CipherRequest}
    (h : (forwardRequests cipher c n p)[k]? = some req) : IsRequestOf c k req := by
  induction n with
  | zero => contradiction
  | succ n ih =>
    have hlen := length_forwardRequests cipher c n p
    rw [forwardRequests, List.getElem?_append] at h
    split at h
    · exact ih (Nat.le_of_lt hn) h
    next hk =>
      rw [List.getElem?_singleton, hlen] at h
      split at h
      next hidx =>
        obtain rfl : k = n := by omega
        obtain rfl := Option.some.inj h
        exact isRequestOf_roundRequest c hn _
      next => contradiction

/-- Inverse, request `k` of the rounds below `n` is that of round `n - 1 - k`. -/
theorem inverseRequests_getElem? {n : Nat} (hn : n ≤ 2 ^ 64) (p : Pair) {k : Nat} {req : CipherRequest}
    (h : (inverseRequests cipher c n p)[k]? = some req) : IsRequestOf c (n - 1 - k) req := by
  induction n generalizing p k with
  | zero => contradiction
  | succ n ih =>
    cases k with
    | zero =>
      obtain rfl : roundRequest c n p = req := Option.some.inj h
      exact isRequestOf_roundRequest c hn p
    | succ k =>
      have hreq := ih (Nat.le_of_lt hn) _ h
      rwa [Nat.sub_sub, Nat.add_comm 1 k] at hreq

end

/-- Settles O43: the requests of a pass are those of its rounds, one for each. -/
theorem requestsFollowTheRounds : Obligations.RequestsFollowTheRounds := by
  intro cipher c dir m hrounds
  have hle : c.rounds ≤ 2 ^ 64 := hrounds.le.trans (by decide)
  cases dir with
  | forward =>
    refine ⟨length_forwardRequests cipher c _ _, fun n r h => ?_⟩
    have hreq := forwardRequests_getElem? cipher c hle _ h
    exact ⟨hreq.key, hreq.round⟩
  | inverse =>
    refine ⟨length_inverseRequests cipher c _ _, fun n r h => ?_⟩
    have hreq := inverseRequests_getElem? cipher c hle _ h
    exact ⟨hreq.key, hreq.round⟩

/-! ## The path (R99) -/

/-- A modulus that divides `2^64` sees the low 64 bits alone, on which the paths agree. -/
theorem roundOutput_path {m : Nat} (hm : 1 ≤ m) (hdvd : m ∣ 2 ^ 64) (cipher : Cipher) (key : List Byte) (p q : Path)
    (w r : Nat) : roundOutput cipher key p w r m = roundOutput cipher key q w r m := by
  have hlow (p : Path) (ct : Block) : unpackBlock p ct % m = fromLE ct.toList % m := by
    rw [← Nat.mod_mod_of_dvd _ hdvd, unpackBlock_mod, Nat.mod_mod_of_dvd _ hdvd]
  rw [roundOutput, roundOutput, natMod_eq hm, natMod_eq hm]
  exact (hlow p _).trans (hlow q _).symm

section
variable {c : Cfg} (hpos : ∀ i, 1 ≤ c.modulus i) (hdvd : ∀ i, c.modulus i ∣ 2 ^ 64) (cipher : Cipher)
include hpos hdvd

theorem passRound_path (path : Path) (dir : Dir) (r : Nat) (p : Pair) :
    passRound cipher { c with path := path } dir r p = passRound cipher c dir r p := by
  have hmod (i : Half) : Cfg.modulus { c with path := path } i = c.modulus i := by cases i <;> rfl
  simp only [passRound, hmod]
  rw [roundOutput_path (hpos _) (hdvd _) cipher c.key path c.path]

theorem forwardPass_path (path : Path) (n : Nat) (p : Pair) :
    forwardPass cipher { c with path := path } n p = forwardPass cipher c n p := by
  induction n with
  | zero => rfl
  | succ n ih =>
    calc forwardPass cipher { c with path := path } (n + 1) p
        = passRound cipher { c with path := path } .forward n (forwardPass cipher { c with path := path } n p) := rfl
      _ = passRound cipher c .forward n (forwardPass cipher c n p) := by rw [ih, passRound_path hpos hdvd]

theorem inversePass_path (path : Path) (n : Nat) (p : Pair) :
    inversePass cipher { c with path := path } n p = inversePass cipher c n p := by
  induction n generalizing p with
  | zero => rfl
  | succ n ih =>
    calc inversePass cipher { c with path := path } (n + 1) p
        = inversePass cipher { c with path := path } n (passRound cipher { c with path := path } .inverse n p) := rfl
      _ = inversePass cipher c n (passRound cipher c .inverse n p) := by rw [ih, passRound_path hpos hdvd]

end

/-- A factor of a power of two that is at most `2^64` divides `2^64`. -/
theorem dvd_two_pow_of_le {m k : Nat} (hdvd : m ∣ 2 ^ k) (hle : m ≤ 2 ^ 64) : m ∣ 2 ^ 64 := by
  obtain ⟨j, -, rfl⟩ := (Nat.dvd_prime_pow Nat.prime_two).mp hdvd
  exact Nat.pow_dvd_pow 2 ((Nat.pow_le_pow_iff_right (by decide)).mp hle)

/-- Settles O47: the moduli of a block size that is a power of two are powers of two themselves. -/
theorem pathIsInvisibleForPowersOfTwo : Obligations.PathIsInvisibleForPowersOfTwo := by
  refine ⟨fun cipher key w r m hm hdvd => roundOutput_path hm hdvd cipher key .small .large w r, ?_⟩
  intro cipher c k hblk h0 h1 path m
  have hmod (i : Half) : c.modulus i ∣ 2 ^ k := by
    cases i
    · exact Dvd.intro _ hblk
    · exact Dvd.intro_left _ hblk
  have hle (i : Half) : c.modulus i ≤ 2 ^ 64 := by cases i <;> assumption
  have hpos (i : Half) : 1 ≤ c.modulus i := Nat.pos_of_dvd_of_pos (hmod i) (Nat.two_pow_pos k)
  have hdvd (i : Half) : c.modulus i ∣ 2 ^ 64 := dvd_two_pow_of_le (hmod i) (hle i)
  exact ⟨congrArg (joinPair c) (forwardPass_path hpos hdvd cipher path c.rounds _),
    congrArg (joinPair c) (inversePass_path hpos hdvd cipher path c.rounds _)⟩

/-! ## Edge configurations (R125) -/

/-- The sum of the outputs of the odd rounds below `n`, which read a high part of 0. -/
def oddRoundsSum (cipher : Cipher) (c : Cfg) : Nat → Nat
  | 0 => 0
  | n + 1 => oddRoundsSum cipher c n + if n % 2 = 0 then 0 else roundOutput cipher c.key c.path 0 n c.mod0

/-- With `MOD[1] = 1` the high part stays 0, and each odd round adds its output to the low part. -/
theorem forwardPass_of_mod1_eq_one (cipher : Cipher) {c : Cfg} (h0 : 1 ≤ c.mod0) (h1 : c.mod1 = 1) (n : Nat) {m : Nat}
    (hm : m < c.mod0) : forwardPass cipher c n ⟨m, 0⟩ = ⟨(m + oddRoundsSum cipher c n) % c.mod0, 0⟩ := by
  induction n with
  | zero => rw [forwardPass, oddRoundsSum, Nat.add_zero, Nat.mod_eq_of_lt hm]
  | succ n ih =>
    rw [forwardPass, ih, oddRoundsSum, forwardRound]
    rcases Nat.mod_two_eq_zero_or_one n with heven | hodd
    · rw [ofParity_of_even heven, if_pos heven]
      simp [Half.other, Pair.put, Cfg.modulus, h1, natMod_eq, Nat.mod_one]
    · rw [ofParity_of_odd hodd, if_neg (by omega)]
      simp [Half.other, Pair.put, Pair.get, Cfg.modulus, natMod_eq h0, Nat.add_assoc]

/-- One round changes the high part alone, by the output of round 0. -/
theorem encrypt_of_one_round (cipher : Cipher) {c : Cfg} (h0 : 1 ≤ c.mod0) (h1 : 1 ≤ c.mod1) (hrounds : c.rounds = 1)
    {m : Nat} (hm : m < c.blksz) :
    encrypt cipher c m = joinPair c ⟨m % c.mod0,
      (m / c.mod0 + roundOutput cipher c.key c.path (m % c.mod0) 0 c.mod1) % c.mod1⟩ := by
  rw [encrypt, hrounds, splitMessage_of_lt h0 h1 hm]
  exact congrArg (fun v => joinPair c ⟨m % c.mod0, v⟩) (natMod_eq h1)

/-- Settles O48: with one half-domain of a single element there is nothing for the even rounds to change, and the only
round of a one-round pass is an even one. -/
theorem edgeConfigurationsOfThePass : Obligations.EdgeConfigurationsOfThePass := by
  intro cipher c h0 h1
  refine ⟨fun hone => ?_, fun hrounds m hm => ?_⟩
  · have hrot {m : Nat} (hm : m < c.mod0) :
        encrypt cipher c m = (m + oddRoundsSum cipher c c.rounds) % c.mod0 := by
      have hblk : m < c.blksz := by rwa [Cfg.blksz, hone, Nat.mul_one]
      rw [encrypt, splitMessage_of_lt h0 h1 hblk, Nat.mod_eq_of_lt hm, Nat.div_eq_of_lt hm,
        forwardPass_of_mod1_eq_one cipher h0 hone _ hm, joinPair, Nat.zero_mul, Nat.zero_add]
    refine ⟨⟨_, fun m hm => hrot hm⟩, fun hrounds m hm => ?_⟩
    rw [hrot hm, hrounds]
    exact Nat.mod_eq_of_lt hm
  · rw [encrypt_of_one_round cipher h0 h1 hrounds hm, joinPair_mod (Nat.mod_lt m h0), joinPair_div (Nat.mod_lt m h0)]
    exact ⟨rfl, rfl⟩

/-! ## Derivation (R96, R97, R98) -/

/-- What `Derive` accepts, and what it answers then. -/
theorem derived_of_derive_ok {keylen radix width rounds : Nat} {d : Derived}
    (h : derive keylen radix width rounds = .ok d) :
    2 ≤ radix ∧ 1 ≤ width ∧ radix ^ halfUp width ≤ 2 ^ 64 ∧
      d = { pw0 := halfUp width, pw1 := halfDown width, mod0 := radix ^ halfUp width, mod1 := radix ^ halfDown width
            blk := radix ^ halfUp width * radix ^ halfDown width
            path := pathOf (radix ^ halfUp width * radix ^ halfDown width) } := by
  by_cases hlen : keylen ∈ Config.keylens
  · by_cases hpar : radix < 2 ∨ width < 1 ∨ rounds < 1
    · rw [derive_of_parameters hlen hpar] at h
      contradiction
    · by_cases hover : Config.modMax < radix ^ halfUp width
      · rw [derive_of_over hlen hpar hover] at h
        contradiction
      · rw [derive_of_legal hlen hpar hover] at h
        exact ⟨by omega, by omega, Nat.le_of_not_lt hover, (Except.ok.inj h).symm⟩
  · rw [derive_of_keylen hlen] at h
    contradiction

theorem halfDown_eq_zero_iff {w : Nat} (h : 1 ≤ w) : halfDown w = 0 ↔ w = 1 := by
  simp only [halfDown]
  omega

/-- Settles O49: both moduli are powers of the radix whose exponents are the halves of the width. -/
theorem derivedValuesAreExact : Obligations.DerivedValuesAreExact := by
  intro keylen radix width rounds d h
  obtain ⟨hradix, hwidth, hcap, rfl⟩ := derived_of_derive_ok h
  have hone : 1 < radix := hradix
  have hle : radix ^ halfDown width ≤ radix ^ halfUp width :=
    Nat.pow_le_pow_right (Nat.zero_lt_of_lt hone) (halfDown_le_halfUp width)
  have hblk := pow_halves radix width
  have hup : halfUp width ≠ 0 := Nat.ne_of_gt (one_le_halfUp hwidth)
  refine ⟨halfUp_add_halfDown width, rfl, rfl, Nat.pow_pos (Nat.zero_lt_of_lt hone), hle,
    hradix.trans (Nat.le_self_pow hup radix), hcap, hblk, ?_, congrArg pathOf hblk, fun heven => ?_, fun hodd => ?_, ?_⟩
  · exact (Nat.mul_le_mul hcap (hle.trans hcap)).trans (by decide)
  · have heq : halfUp width = halfDown width := by simp only [halfUp, halfDown]; omega
    exact congrArg (radix ^ ·) heq
  · have hsucc : halfUp width = halfDown width + 1 := by simp only [halfUp, halfDown]; omega
    exact (congrArg (radix ^ ·) hsucc).trans Nat.pow_succ'
  · rw [← halfDown_eq_zero_iff hwidth]
    exact Nat.pow_eq_one.trans (or_iff_right (by omega))

/-- With legal parameters the capacity error is exactly the overflow of the larger modulus. -/
theorem derive_capacity_iff {keylen radix width rounds : Nat} (hlen : keylen ∈ Config.keylens) (hradix : 2 ≤ radix)
    (hwidth : 1 ≤ width) (hrounds : 1 ≤ rounds) :
    derive keylen radix width rounds = .error .capacityExceeded ↔ 2 ^ 64 < radix ^ halfUp width := by
  have hpar : ¬(radix < 2 ∨ width < 1 ∨ rounds < 1) := by omega
  refine ⟨fun h => ?_, fun hover => derive_of_over hlen hpar hover⟩
  by_contra hcap
  rw [derive_of_legal hlen hpar hcap] at h
  contradiction

/-- Where the powers of the radix cross `2^64` between `a` and `a + 1`, the width may be at most `2 * a`. -/
theorem lt_pow_halfUp_iff {radix a : Nat} (hradix : 2 ≤ radix) (hle : radix ^ a ≤ 2 ^ 64)
    (hlt : 2 ^ 64 < radix ^ (a + 1)) (width : Nat) : 2 ^ 64 < radix ^ halfUp width ↔ 2 * a < width := by
  have hhalf : a + 1 ≤ halfUp width ↔ 2 * a < width := by simp only [halfUp]; omega
  rw [← hhalf]
  constructor
  · intro hover
    exact (Nat.pow_lt_pow_iff_right hradix).mp (hle.trans_lt hover)
  · exact fun h => hlt.trans_le (Nat.pow_le_pow_right (by omega) h)

/-- Settles O50: `2^64` lies between the powers 64 and 65 of 2, 19 and 20 of 10, and 1 and 2 of the largest radices. -/
theorem capacityEndsWhereStated : Obligations.CapacityEndsWhereStated := by
  intro keylen radix width rounds hkeylen hradix hwidth hrounds
  have hlen : keylen ∈ Config.keylens := by simpa [Config.keylens] using hkeylen
  refine ⟨derive_capacity_iff hlen hradix hwidth hrounds, ?_, ?_, fun hlo hhi => ?_⟩
  · rw [derive_capacity_iff hlen (by decide) hwidth hrounds]
    exact lt_pow_halfUp_iff (a := 64) (by decide) (by decide) (by decide) width
  · rw [derive_capacity_iff hlen (by decide) hwidth hrounds]
    exact lt_pow_halfUp_iff (a := 19) (by decide) (by decide) (by decide) width
  · rw [derive_capacity_iff hlen hradix hwidth hrounds]
    have hsquare : 2 ^ 64 < radix ^ 2 := Nat.lt_of_lt_of_le (by decide) (Nat.pow_le_pow_left hlo 2)
    exact lt_pow_halfUp_iff (a := 1) hradix ((Nat.pow_one radix).trans_le hhi.le) hsquare width

end Sys2Proof.Machine
end

section
/-! What no step shows and no step changes: secrets and scratch at the port, a running command, and the active
configuration (R22, R25, R43, R58, R101). -/

namespace Sys2Proof.Machine

/-! ## What a read depends on (R51) -/

/-- Settles O55: the map of R51 names no key register and no scratch register. -/
theorem keyAndScratchAreHidden : Obligations.KeyAndScratchAreHidden := by
  intro s t h wa
  have hhide (u : State) : busRead u.hideSecrets wa = busRead u wa := rfl
  rw [← hhide s, h, hhide t]

theorem busRead_clearScratch (s : State) (wa : WordIndex) : busRead s.clearScratch wa = busRead s wa := rfl

/-- Of `PHASE` a read shows `BUSY` alone. -/
theorem busRead_phase {s : State} {p : Phase} (hbusy : s.phase ≠ .idle) (hp : p ≠ .idle) (wa : WordIndex) :
    busRead { s with phase := p } wa = busRead s wa := by
  have hstatus : statusWord { s with phase := p } = statusWord s := by
    rw [statusWord, statusWord, (busy_iff s).mpr hbusy, (busy_iff { s with phase := p }).mpr hp]
  unfold busRead
  rw [hstatus]
  rfl

/-- Settles O54: a micro-operation that completes nothing changes scratch, `PHASE` and the requests; of the host's
transactions a reset completes the command and the others do nothing but read. -/
theorem runningCommandIsInvisible : Obligations.RunningCommandIsInvisible := by
  intro s t hstep hs ht wa
  obtain ⟨hidle, -⟩ | ⟨i, hi, -, hexec⟩ | ⟨e, rest, -, -, hmove⟩ := step_cases hstep
  · exact absurd hidle hs
  · cases exec_microOp_cases (s := { s with host := countGap s.host }) hi hexec with
    | raises _ _ heq | joins _ _ heq | commits _ heq => exact absurd (heq ▸ rfl) ht
    | continues p rs hp _ hframe =>
      calc busRead t wa
          = busRead t.clearScratch wa := (busRead_clearScratch t wa).symm
        _ = busRead { s with phase := p } wa := by rw [hframe]; rfl
        _ = busRead s wa := busRead_phase hs hp wa
  · obtain ⟨_, -, rfl⟩ | ⟨d, -, hexec⟩ | ⟨wa', d, -, -, rfl⟩ | ⟨-, rfl⟩ | ⟨-, rfl⟩ := hmove
    · rfl
    · obtain rfl := Host.Outcome.next.inj ((exec_command_busy (s := { s with host := rest }) d hs).symm.trans hexec)
      rfl
    · rw [busWrite_busy (s := { s with host := rest }) wa' d hs]
      rfl
    · rfl
    · exact absurd rfl ht

/-! ## The active configuration (R101) -/

/-- The registers of the active configuration are the same, `CFG_VALID` aside. -/
def SameConfig (s t : State) : Prop :=
  t.aKey = s.aKey ∧ t.aKeylen = s.aKeylen ∧ t.aRadix = s.aRadix ∧ t.aWidth = s.aWidth ∧ t.aRounds = s.aRounds ∧
  t.pw0 = s.pw0 ∧ t.pw1 = s.pw1 ∧ t.mod0 = s.mod0 ∧ t.mod1 = s.mod1 ∧ t.blksz = s.blksz ∧ t.path = s.path

theorem SameConfig.refl (s : State) : SameConfig s s := ⟨rfl, rfl, rfl, rfl, rfl, rfl, rfl, rfl, rfl, rfl, rfl⟩

theorem SameButScratch.sameConfig {s t : State} {p : Phase} {rs : List CipherRequest}
    (h : SameButScratch t { s with phase := p, requests := rs }) : SameConfig s t ∧ t.cfgValid = s.cfgValid := by
  obtain ⟨-, ⟨hvalid, haKey, haKeylen, haRadix, haWidth, haRounds, hpw0, hpw1, hmod0, hmod1, hblksz, hpath⟩, -⟩ :=
    (sameButScratch_iff _ _).mp h
  exact ⟨⟨haKey, haKeylen, haRadix, haWidth, haRounds, hpw0, hpw1, hmod0, hmod1, hblksz, hpath⟩, hvalid⟩

/-- A micro-operation other than `I_COMMIT` leaves the configuration alone, and clears `CFG_VALID` only where it
completes an `INIT`. -/
theorem MicroOutcome.sameConfig {s t : State} (h : MicroOutcome s t) (hp : s.phase ≠ .iCommit) :
    SameConfig s t ∧ (t.cfgValid = s.cfgValid ∨ (s.phase.ofInit = true ∧ t.cfgValid = false ∧ t.phase = .idle)) := by
  cases h with
  | continues _ _ _ _ hframe => exact hframe.sameConfig.imp_right .inl
  | commits hcommit _ => exact absurd hcommit hp
  | raises e hmem heq =>
    rw [heq, finish_of_mem_errors hmem]
    refine ⟨.refl s, ?_⟩
    cases hinit : s.phase.ofInit with
    | true => exact .inr ⟨rfl, rfl, rfl⟩
    | false => exact .inl rfl
  | joins v hjoin heq =>
    have hpass : { s with dout := v }.phase.ofInit = false := by rw [show _ = Phase.xJoin from hjoin]; rfl
    rw [heq, finish_pass hpass]
    exact ⟨.refl s, .inl rfl⟩

/-- Accepting a command changes no register of the configuration. -/
theorem CommandOutcome.sameConfig {s t : State} (h : CommandOutcome s t) :
    SameConfig s t ∧ t.cfgValid = s.cfgValid := by
  cases h <;> exact ⟨.refl s, rfl⟩

theorem busWrite_sameConfig (wa : WordIndex) (d : BusWord) (s : State) :
    SameConfig s (busWrite wa d s) ∧ (busWrite wa d s).cfgValid = s.cfgValid := by
  by_cases hidle : s.phase = .idle
  · rw [busWrite_idle wa d hidle, writeRegister_frame]
    exact ⟨.refl s, rfl⟩
  · rw [busWrite_busy wa d hidle]
    exact ⟨.refl s, rfl⟩

/-- A step that is neither the sequencer's at `I_COMMIT` nor a reset. -/
theorem step_sameConfig {s t : State} (hstep : step s = .next t) (hreset : ¬HostMoves s .reset)
    (hcommit : s.phase = .iCommit → ∃ op, HostMoves s op) :
    SameConfig s t ∧ (t.cfgValid = s.cfgValid ∨
      ((∀ op, ¬HostMoves s op) ∧ s.phase.ofInit = true ∧ t.cfgValid = false ∧ t.phase = .idle)) := by
  obtain ⟨-, -, rfl⟩ | ⟨i, hi, hno, hexec⟩ | ⟨e, rest, hh, hturn, hmove⟩ := step_cases hstep
  · exact ⟨.refl t, .inl rfl⟩
  · have hnone : ∀ op, ¬HostMoves s op := by
      rintro op ⟨e, he, hturn, -⟩
      exact Bool.false_ne_true ((hno e he).symm.trans hturn)
    have hp : s.phase ≠ .iCommit := fun hp => (hcommit hp).elim hnone
    obtain ⟨hconfig, hvalid⟩ :=
      (exec_microOp_cases (s := { s with host := countGap s.host }) hi hexec).sameConfig hp
    exact ⟨hconfig, hvalid.imp_right fun hcleared => ⟨hnone, hcleared⟩⟩
  · obtain ⟨_, -, rfl⟩ | ⟨d, -, hexec⟩ | ⟨wa, d, -, -, rfl⟩ | ⟨-, rfl⟩ | ⟨hop, -⟩ := hmove
    · exact ⟨.refl s, .inl rfl⟩
    · obtain ⟨-, hout⟩ | ⟨-, rfl⟩ := exec_command_cases hexec
      · exact hout.sameConfig.imp_right .inl
      · exact ⟨.refl s, .inl rfl⟩
    · exact (busWrite_sameConfig wa d { s with host := rest }).imp_right .inl
    · exact ⟨.refl s, .inl rfl⟩
    · exact absurd ((hostMoves_cons hh .reset).mpr ⟨hturn, hop⟩) hreset

/-- Settles O53: the registers one by one, from the step as a whole. -/
theorem configurationIsImmutable : Obligations.ConfigurationIsImmutable := by
  intro s t hstep hreset hcommit
  obtain ⟨⟨haKey, haKeylen, haRadix, haWidth, haRounds, hpw0, hpw1, hmod0, hmod1, hblksz, hpath⟩, hvalid⟩ :=
    step_sameConfig hstep hreset hcommit
  exact ⟨haKey, haKeylen, haRadix, haWidth, haRounds, hpw0, hpw1, hmod0, hmod1, hblksz, hpath, hvalid⟩

end Sys2Proof.Machine
end

section
/-! Two runs side by side: the gaps of a script that waits for its commands do not matter, and neither does what scratch
holds in `IDLE` (R43, R138). -/

namespace Sys2Proof.Machine

/-! ## Runs in lockstep (R171) -/

/-- Where every pair of steps keeps a relation, every pair of runs does. -/
theorem runsTo_lockstep {R : State → State → Prop}
    (hstep : ∀ {s t u v}, R s t → step s = .next u → step t = .next v → R u v) (k : Nat) {s t s' : State} (h : R s t)
    (hrun : RunsTo k s s') : ∃ t', RunsTo k t t' ∧ R s' t' := by
  induction k generalizing s t with
  | zero =>
    obtain rfl := (runsTo_zero s s').mp hrun
    exact ⟨t, (runsTo_zero t t).mpr rfl, h⟩
  | succ k ih =>
    obtain ⟨u, hu, hrest⟩ := hrun.step_first
    obtain ⟨v, hv⟩ := everyStepAnswersNext t
    obtain ⟨t', hrun', hR⟩ := ih (hstep h hu hv) hrest
    exact ⟨t', (runsTo_succ hv).mpr hrun', hR⟩

/-- The next state of a result, changed; a stop stays as it is. -/
def mapNext (f : State → State) : Result → Result
  | .next t => .next (f t)
  | .fault r => .fault r
  | .refused r => .refused r

/-! ## The host's list and the instruction that runs (R47) -/

/-- The state with another list of pending transactions. -/
def State.setHost (s : State) (es : List HostEvent) : State := { s with host := es }

section
variable (s : State) (es : List HostEvent)

theorem setWork_setHost (i : Half) (v : BitVec Config.workW) :
    (s.setHost es).setWork i v = (s.setWork i v).setHost es := by
  cases i <;> rfl

theorem afterMix_setHost : afterMix (s.setHost es) = (afterMix s).setHost es :=
  congrArg (fun u : State => { u with
    fromIdx := s.toIdx, toIdx := s.fromIdx
    rnd := if lastRound s then s.rnd else nextRound s
    phase := if lastRound s then .xJoin else .rPack }) (setWork_setHost s es s.toIdx (mixedWork s))

/-- No micro-operation reads or writes what the host has still to do. -/
theorem exec_microOp_setHost {i : Instr} (hi : microOp s.phase = some i) :
    exec i (s.setHost es) = mapNext (State.setHost · es) (exec i s) := by
  cases hp : s.phase <;> rw [hp] at hi <;> cases hi
  case iKeychk =>
    by_cases hlen : s.keylen.toNat ∈ Config.keylens
    · rw [exec_iKeychk_of_mem hlen, exec_iKeychk_of_mem (s := s.setHost es) hlen]
      rfl
    · rw [exec_iKeychk_of_not_mem hlen, exec_iKeychk_of_not_mem (s := s.setHost es) hlen]
      rfl
  case iParchk =>
    by_cases hpar : s.radix.toNat < 2 ∨ s.width.toNat < 1 ∨ s.rounds.toNat < 1
    · rw [exec_iParchk_of_invalid hpar, exec_iParchk_of_invalid (s := s.setHost es) hpar]
      rfl
    · rw [exec_iParchk_of_valid hpar, exec_iParchk_of_valid (s := s.setHost es) hpar]
      rfl
  case iExp =>
    by_cases hover : s.cnt.toNat < s.tPw0.toNat ∧ Config.modMax < s.acc.toNat * s.radix.toNat
    · rw [exec_iExp_of_over hover, exec_iExp_of_over (s := s.setHost es) hover]
      rfl
    · by_cases hlast : s.cnt = s.tPw0
      · rw [exec_iExp_last hlast, exec_iExp_last (s := s.setHost es) hlast]
        rfl
      · rw [exec_iExp_more hlast hover, exec_iExp_more (s := s.setHost es) hlast hover]
        rfl
  case xCheck =>
    by_cases hvalid : s.cfgValid = true
    · rw [exec_xCheck_of_engine hvalid, exec_xCheck_of_engine (s := s.setHost es) hvalid]
      by_cases hrange : s.blksz.toNat ≤ s.din.toNat
      · rw [if_pos hrange, if_pos (show (s.setHost es).blksz.toNat ≤ (s.setHost es).din.toNat from hrange)]
        rfl
      · rw [if_neg hrange, if_neg (show ¬(s.setHost es).blksz.toNat ≤ (s.setHost es).din.toNat from hrange)]
        rfl
    · rw [exec_xCheck_of_no_engine (Bool.eq_false_iff.mpr hvalid),
        exec_xCheck_of_no_engine (s := s.setHost es) (Bool.eq_false_iff.mpr hvalid)]
      rfl
  case rMix =>
    rw [exec_rMix, exec_rMix]
    exact congrArg Host.Outcome.next (afterMix_setHost s es)
  all_goals rfl

theorem commandEffect_host (i : Instr) : (commandEffect i s).host = s.host := by
  cases i <;> rfl

theorem busWrite_host (wa : WordIndex) (d : BusWord) : (busWrite wa d s).host = s.host := by
  unfold busWrite
  split
  · rfl
  · rw [writeRegister_frame]

theorem busWrite_phase (wa : WordIndex) (d : BusWord) : (busWrite wa d s).phase = s.phase := by
  unfold busWrite
  split
  · rfl
  · rw [writeRegister_frame]

theorem busWrite_setHost (wa : WordIndex) (d : BusWord) :
    busWrite wa d (s.setHost es) = (busWrite wa d s).setHost es := by
  by_cases hidle : s.phase = .idle
  · rw [busWrite_idle wa d hidle, busWrite_idle (s := s.setHost es) wa d hidle]
    unfold writeRegister
    split <;> rfl
  · rw [busWrite_busy wa d hidle, busWrite_busy (s := s.setHost es) wa d hidle]

theorem commandEffect_setHost (i : Instr) : commandEffect i (s.setHost es) = (commandEffect i s).setHost es := by
  cases i <;> rfl

end

/-! ## Live scratch (R43) -/

/-- The state with every scratch register cleared that no later step of the running command reads before it is written.
`T_MOD[1]` is live in `I_EXP` from the power `T_PW[1]` on. -/
def State.clearDead (s : State) : State :=
  { s with
    dir := if s.phase = .xCheck ∨ s.phase.afterCheck = true then s.dir else .forward
    rnd := if s.phase.inRound then s.rnd else 0
    fromIdx := if s.phase.inRound then s.fromIdx else .lo
    toIdx := if s.phase.inRound then s.toIdx else .lo
    work0 := if s.phase.afterSplit then s.work0 else 0
    work1 := if s.phase.afterSplit then s.work1 else 0
    ptbuf := if s.phase = .rCiph then s.ptbuf else State.reset.ptbuf
    ctbuf := if s.phase = .rUnpack then s.ctbuf else State.reset.ctbuf
    raw := if s.phase = .rReduce then s.raw else 0
    delta := if s.phase = .rMix then s.delta else 0
    acc := if s.phase = .iExp then s.acc else 0
    cnt := if s.phase = .iExp then s.cnt else 0
    tPw0 := if s.phase.afterWidths then s.tPw0 else 0
    tPw1 := if s.phase.afterWidths then s.tPw1 else 0
    tMod0 := if s.phase = .iPath ∨ s.phase = .iCommit then s.tMod0 else 0
    tMod1 :=
      if s.phase = .iPath ∨ s.phase = .iCommit ∨
        (s.phase = .iExp ∧ (s.tPw1.toNat < s.cnt.toNat ∨ s.tPw0.toNat < s.tPw1.toNat))
      then s.tMod1 else 0
    tBlk := if s.phase = .iCommit then s.tBlk else 0
    tPath := if s.phase = .iCommit then s.tPath else .small }

theorem eq_setPhase {s : State} {p : Phase} (hp : s.phase = p) : s = { s with phase := p } := by rw [← hp]

section
variable {s : State} (hp : s.phase = .iExp)
include hp

/-- In `I_EXP` a dead `T_MOD[1]` may be anything. -/
theorem clearDead_of_dead (hdead : ¬(s.tPw1.toNat < s.cnt.toNat ∨ s.tPw0.toNat < s.tPw1.toNat))
    (x : BitVec Config.modW) : { s with tMod1 := x }.clearDead = s.clearDead := by
  simp [State.clearDead, hp, hdead]

/-- Where the power `T_PW[1]` is reached or behind, what `I_EXP` leaves in `T_MOD[1]` depends on live registers
alone. -/
theorem nextTMod1_clearDead (h : s.cnt = s.tPw1 ∨ s.tPw1.toNat < s.cnt.toNat ∨ s.tPw0.toNat < s.tPw1.toNat) :
    nextTMod1 s.clearDead = nextTMod1 s := by
  have hacc : s.clearDead.acc = s.acc := if_pos hp
  have hcnt : s.clearDead.cnt = s.cnt := if_pos hp
  have hpw1 : s.clearDead.tPw1 = s.tPw1 := if_pos (by rw [hp]; rfl)
  rw [nextTMod1, nextTMod1, hacc, hcnt, hpw1]
  split
  next => rfl
  next hne => exact if_pos (.inr (.inr ⟨hp, h.resolve_left hne⟩))

end

/-- The state after a multiplication of `I_EXP` that leaves `x` in `T_MOD[1]`. -/
def expNext (s : State) (x : BitVec Config.modW) : State :=
  { s with
    tMod1 := x, acc := fit Config.blkW (s.acc.toNat * s.radix.toNat)
    cnt := fit Config.widthW (s.cnt.toNat + 1), phase := .iExp }

/-- Before the power `T_PW[1]` is reached, `T_MOD[1]` is dead after a multiplication too. -/
theorem clearDead_expNext {s : State}
    (h : ¬(s.cnt = s.tPw1 ∨ s.tPw1.toNat < s.cnt.toNat ∨ s.tPw0.toNat < s.tPw1.toNat)) (x y : BitVec Config.modW) :
    (expNext s x).clearDead = (expNext s y).clearDead := by
  have hne : s.cnt.toNat ≠ s.tPw1.toNat := fun hnat => h (.inl (BitVec.eq_of_toNat_eq hnat))
  have hlt : s.cnt.toNat < s.tPw1.toNat := by omega
  have hcnt : (expNext s y).cnt.toNat = s.cnt.toNat + 1 := fit_toNat (Nat.lt_of_le_of_lt hlt s.tPw1.isLt)
  refine clearDead_of_dead (s := expNext s y) rfl ?_ x
  rw [hcnt]
  exact not_or.mpr ⟨Nat.not_lt_of_le hlt, fun hle => h (.inr (.inr hle))⟩

theorem exec_iExp_clearDead {s : State} (hp : s.phase = .iExp) :
    mapNext State.clearDead (exec .iExp s.clearDead) = mapNext State.clearDead (exec .iExp s) := by
  have hacc : s.clearDead.acc = s.acc := if_pos hp
  have hcnt : s.clearDead.cnt = s.cnt := if_pos hp
  have hpw0 : s.clearDead.tPw0 = s.tPw0 := if_pos (by rw [hp]; rfl)
  have hradix : s.clearDead.radix = s.radix := rfl
  by_cases hover : s.cnt.toNat < s.tPw0.toNat ∧ Config.modMax < s.acc.toNat * s.radix.toNat
  · rw [exec_iExp_of_over hover, exec_iExp_of_over (by rwa [hcnt, hpw0, hacc, hradix]), eq_setPhase hp]
    rfl
  · by_cases hlast : s.cnt = s.tPw0
    · rw [exec_iExp_last hlast, exec_iExp_last (by rwa [hcnt, hpw0]), nextTMod1_clearDead hp, eq_setPhase hp]
      · rfl
      · have hnat : s.cnt = s.tPw1 ↔ s.cnt.toNat = s.tPw1.toNat := BitVec.toNat_inj.symm
        rw [hnat, ← hlast]
        omega
    · rw [exec_iExp_more hlast hover, exec_iExp_more (by rwa [hcnt, hpw0]) (by rwa [hcnt, hpw0, hacc, hradix])]
      have hsame (x : BitVec Config.modW) : (expNext s.clearDead x).clearDead = (expNext s x).clearDead := by
        rw [eq_setPhase hp]
        rfl
      have hmod1 : (expNext s (nextTMod1 s.clearDead)).clearDead = (expNext s (nextTMod1 s)).clearDead := by
        by_cases hlive : s.cnt = s.tPw1 ∨ s.tPw1.toNat < s.cnt.toNat ∨ s.tPw0.toNat < s.tPw1.toNat
        · rw [nextTMod1_clearDead hp hlive]
        · exact clearDead_expNext hlive _ _
      exact congrArg Host.Outcome.next ((hsame _).trans hmod1)

/-- The state after `I_WIDTHS`. -/
def widthsNext (s : State) : State :=
  { s with
    tPw0 := fit Config.widthW (halfUp s.width.toNat), tPw1 := fit Config.widthW (halfDown s.width.toNat)
    acc := 1, cnt := 0, phase := .iExp }

/-- `I_WIDTHS` starts at power 0, from where `T_MOD[1]` will still be written. -/
theorem widthsNext_clearDead (s : State) : (widthsNext s.clearDead).clearDead = (widthsNext s).clearDead := by
  have hdead : ¬((widthsNext s).tPw1.toNat < (widthsNext s).cnt.toNat ∨
      (widthsNext s).tPw0.toNat < (widthsNext s).tPw1.toNat) := by
    rw [show (widthsNext s).tPw0.toNat = _ from fit_halfUp_toNat s.width,
      show (widthsNext s).tPw1.toNat = _ from fit_halfDown_toNat s.width]
    exact not_or.mpr ⟨Nat.not_lt_zero _, Nat.not_lt_of_le (halfDown_le_halfUp _)⟩
  calc (widthsNext s.clearDead).clearDead
      = { widthsNext s with tMod1 := s.clearDead.tMod1 }.clearDead := rfl
    _ = (widthsNext s).clearDead := clearDead_of_dead rfl hdead _

/-- Of the scratch before it `R_MIX` reads work values, indices, round number, direction and `DELTA`. -/
theorem afterMix_clearDead {s : State} (hp : s.phase = .rMix) :
    (afterMix s.clearDead).clearDead = (afterMix s).clearDead := by
  obtain ⟨r, i, rfl⟩ : ∃ r i, s = { r with phase := .rMix, toIdx := i } := ⟨s, s.toIdx, eq_setPhase hp⟩
  have hlast : lastRound (State.clearDead { r with phase := .rMix, toIdx := i }) =
      lastRound { r with phase := .rMix, toIdx := i } := rfl
  rw [afterMix, afterMix, hlast]
  cases i <;> cases lastRound _ <;> rfl

theorem exec_clearDead (s : State) {i : Instr} (hi : microOp s.phase = some i) :
    mapNext State.clearDead (exec i s.clearDead) = mapNext State.clearDead (exec i s) := by
  cases hp : s.phase <;> rw [hp] at hi <;> cases hi
  case iKeychk =>
    by_cases hlen : s.keylen.toNat ∈ Config.keylens
    · rw [exec_iKeychk_of_mem hlen, exec_iKeychk_of_mem (s := s.clearDead) hlen]
      rfl
    · rw [exec_iKeychk_of_not_mem hlen, exec_iKeychk_of_not_mem (s := s.clearDead) hlen, eq_setPhase hp]
      rfl
  case iParchk =>
    by_cases hpar : s.radix.toNat < 2 ∨ s.width.toNat < 1 ∨ s.rounds.toNat < 1
    · rw [exec_iParchk_of_invalid hpar, exec_iParchk_of_invalid (s := s.clearDead) hpar, eq_setPhase hp]
      rfl
    · rw [exec_iParchk_of_valid hpar, exec_iParchk_of_valid (s := s.clearDead) hpar]
      rfl
  case iWidths => exact congrArg Host.Outcome.next (widthsNext_clearDead s)
  case iExp => exact exec_iExp_clearDead hp
  case xCheck =>
    by_cases hvalid : s.cfgValid = true
    · rw [exec_xCheck_of_engine hvalid, exec_xCheck_of_engine (s := s.clearDead) hvalid]
      by_cases hrange : s.blksz.toNat ≤ s.din.toNat
      · rw [if_pos hrange, if_pos (show s.clearDead.blksz.toNat ≤ s.clearDead.din.toNat from hrange), eq_setPhase hp]
        rfl
      · rw [if_neg hrange, if_neg (show ¬s.clearDead.blksz.toNat ≤ s.clearDead.din.toNat from hrange), eq_setPhase hp]
        rfl
    · rw [exec_xCheck_of_no_engine (Bool.eq_false_iff.mpr hvalid),
        exec_xCheck_of_no_engine (s := s.clearDead) (Bool.eq_false_iff.mpr hvalid), eq_setPhase hp]
      rfl
  case rMix =>
    rw [exec_rMix, exec_rMix]
    exact congrArg Host.Outcome.next (afterMix_clearDead hp)
  all_goals rw [eq_setPhase hp]; rfl

theorem clearDead_clearDead (s : State) : s.clearDead.clearDead = s.clearDead := by
  cases hp : s.phase
  case iExp =>
    by_cases hlive : s.tPw1.toNat < s.cnt.toNat ∨ s.tPw0.toNat < s.tPw1.toNat <;>
      simp [State.clearDead, hp, Phase.afterCheck, Phase.afterSplit, Phase.inRound, Phase.afterWidths, hlive]
  all_goals rw [eq_setPhase hp]; rfl

/-- In `IDLE` all scratch is dead. -/
theorem clearDead_idle {s : State} (hidle : s.phase = .idle) : s.clearDead = s.clearScratch := by
  rw [eq_setPhase hidle]
  rfl

theorem sameButScratch_of_clearDead {s t : State} (h : s.clearDead = t.clearDead) : SameButScratch s t :=
  have hclear : s.clearDead.clearScratch = t.clearDead.clearScratch := congrArg State.clearScratch h
  hclear

/-- No command reads scratch at its acceptance. -/
theorem commandEffect_clearDead (i : Instr) {s : State} (hidle : s.phase = .idle) :
    (commandEffect i s.clearDead).clearDead = (commandEffect i s).clearDead := by
  rw [eq_setPhase hidle]
  cases i <;> rfl

theorem clearDead_busWrite (wa : WordIndex) (d : BusWord) (s : State) :
    (busWrite wa d s).clearDead = busWrite wa d s.clearDead := by
  by_cases hidle : s.phase = .idle
  · rw [busWrite_idle wa d hidle, busWrite_idle (s := s.clearDead) wa d hidle]
    unfold writeRegister
    split <;> rfl
  · rw [busWrite_busy wa d hidle, busWrite_busy (s := s.clearDead) wa d hidle]

/-- Dead scratch does not show in a step: with it cleared, the step differs in dead scratch alone. -/
theorem step_clearDead {s t : State} (hstep : step s = .next t) :
    mapNext State.clearDead (step s.clearDead) = .next t.clearDead := by
  obtain ⟨hidle, hh, rfl⟩ | ⟨i, hi, hno, hexec⟩ | ⟨e, rest, hh, hturn, hmove⟩ := step_cases hstep
  · rw [step_settled (s := t.clearDead) hidle hh]
    exact congrArg Host.Outcome.next (clearDead_clearDead t)
  · rw [step_sequencer (s := s.clearDead) hi hno]
    exact (exec_clearDead { s with host := countGap s.host } hi).trans (congrArg _ hexec)
  · have hidem := clearDead_clearDead { s with host := rest }
    rw [step_host (s := s.clearDead) hh hturn]
    obtain ⟨wa, hop, rfl⟩ | ⟨d, hop, hexec⟩ | ⟨wa, d, hop, hwa, rfl⟩ | ⟨hop, rfl⟩ | ⟨hop, rfl⟩ := hmove <;> rw [hop]
    · exact congrArg (fun u => Host.Outcome.next (recordRead wa u)) hidem
    · dsimp only
      rw [if_pos rfl]
      by_cases hidle : s.phase = .idle
      · obtain rfl := Host.Outcome.next.inj
          ((exec_command_idle (s := { s with host := rest }) d hidle).symm.trans hexec)
        rw [exec_command_idle (s := { s.clearDead with host := rest }) d hidle]
        exact congrArg Host.Outcome.next (commandEffect_clearDead _ (s := { s with host := rest }) hidle)
      · obtain rfl := Host.Outcome.next.inj
          ((exec_command_busy (s := { s with host := rest }) d hidle).symm.trans hexec)
        rw [exec_command_busy (s := { s.clearDead with host := rest }) d hidle]
        exact congrArg Host.Outcome.next hidem
    · dsimp only
      rw [if_neg hwa, clearDead_busWrite]
      exact congrArg Host.Outcome.next ((clearDead_busWrite _ _ _).trans (congrArg (busWrite wa d) hidem))
    · exact congrArg (fun u => Host.Outcome.next (recordRead Reg.status u)) hidem
    · rfl

/-- Settles O56: in `IDLE` all scratch is dead, and states that agree but for dead scratch do so after every step. -/
theorem oldScratchNeverMatters : Obligations.OldScratchNeverMatters := by
  intro s t hidle hsame k s' hrun
  have hagree : s.clearDead = t.clearDead := by
    rw [clearDead_idle hidle, clearDead_idle (hsame.phase_eq.symm.trans hidle), hsame]
  obtain ⟨t', hrun', hagree'⟩ := runsTo_lockstep (R := fun s t => s.clearDead = t.clearDead)
    (fun {s t u v} h hu hv => by
      have hnext := (step_clearDead hu).symm.trans ((congrArg (fun w => mapNext State.clearDead (step w)) h).trans
        (step_clearDead hv))
      exact Host.Outcome.next.inj hnext) k hagree hrun
  exact ⟨t', hrun', sameButScratch_of_clearDead hagree'⟩

/-! ## Gaps (R138) -/

/-- The pending transactions without their gaps. -/
def eraseGapsOf (es : List HostEvent) : List HostEvent := es.map fun e => { e with gap := 0 }

theorem eraseGaps_of_host {s : State} {es : List HostEvent} (hh : s.host = es) :
    s.eraseGaps = s.setHost (eraseGapsOf es) := by
  rw [← hh]
  rfl

theorem eraseGapsOf_countGap (es : List HostEvent) : eraseGapsOf (countGap es) = eraseGapsOf es := by
  cases es <;> rfl

/-- The host honours every `WAIT` still to come, and while the engine is busy its next transaction is one (R172). -/
structure Honours (s : State) : Prop where
  script : waitsForCommands (s.host.map HostEvent.op) = true
  waits : s.phase ≠ .idle → ∀ e ∈ s.host.head?, e.op = .wait

theorem waitsForCommands_tail {op : HostOp} {ops : List HostOp} (h : waitsForCommands (op :: ops) = true) :
    waitsForCommands ops = true := by
  cases op with
  | write wa d => exact (Bool.and_eq_true_iff.mp h).2
  | _ => exact h

/-- What comes after a write to `CMD` is a `WAIT`. -/
theorem waitsForCommands_command {d : BusWord} {es : List HostEvent}
    (h : waitsForCommands (HostOp.write Reg.cmd d :: es.map HostEvent.op) = true) : ∀ e ∈ es.head?, e.op = .wait := by
  cases es with
  | nil => nofun
  | cons e rest =>
    rintro _ ⟨⟩
    cases hop : e.op <;> simp [waitsForCommands, hop] at h ⊢

/-- Where the host honours its `WAIT`s, the gaps erased leave it waiting while the engine is busy. -/
theorem Honours.hostWaits {s : State} (h : Honours s) (hbusy : s.phase ≠ .idle) : HostWaits s.eraseGaps.host := by
  have hwaits := h.waits hbusy
  cases hh : s.host with
  | nil => rw [eraseGaps_host, hh]; exact hostWaits_nil
  | cons e rest =>
    rw [eraseGaps_host, hh, List.map_cons, hwaits e (by rw [hh]; rfl)]
    exact hostWaits_wait _

theorem step_eraseGaps_microOp {s t : State} {i : Instr} (h : Honours s) (hi : microOp s.phase = some i)
    (hexec : exec i { s with host := countGap s.host } = .next t) :
    step s.eraseGaps = .next t.eraseGaps ∧ Honours t := by
  have hbusy := microOp_ne_idle hi
  obtain ⟨hhost, -⟩ := (exec_microOp_cases (s := { s with host := countGap s.host }) hi hexec).host_reads
  have herase : eraseGapsOf t.host = eraseGapsOf s.host := (congrArg eraseGapsOf hhost).trans (eraseGapsOf_countGap _)
  have hops : t.host.map HostEvent.op = s.host.map HostEvent.op := by
    rw [hhost]
    cases s.host <;> rfl
  constructor
  · rw [step_microOp (s := s.eraseGaps) hi (h.hostWaits hbusy), eraseGaps_of_host (s := t) rfl, herase]
    exact (exec_microOp_setHost { s with host := countGap s.host } _ hi).trans (congrArg _ hexec)
  · refine ⟨hops ▸ h.script, fun _ e he => ?_⟩
    have hwaits := h.waits hbusy
    rw [show t.host = countGap s.host from hhost] at he
    cases hh : s.host with
    | nil => rw [hh] at he; contradiction
    | cons e' rest =>
      rw [hh] at he hwaits
      obtain rfl := Option.some.inj he
      exact hwaits e' rfl

theorem step_eraseGaps {s t : State} (h : Honours s) (hstep : step s = .next t) :
    step s.eraseGaps = .next t.eraseGaps ∧ Honours t := by
  obtain ⟨hidle, hh, rfl⟩ | ⟨i, hi, hno, hexec⟩ | ⟨e, rest, hh, hturn, hmove⟩ := step_cases hstep
  · exact ⟨step_settled (s := t.eraseGaps) hidle (by rw [eraseGaps_host, hh]; rfl), h⟩
  · exact step_eraseGaps_microOp h hi hexec
  · have hidle : s.phase = .idle := by
      by_contra hbusy
      exact ((hostTurn_busy e hbusy).mp hturn).2 (h.waits hbusy e (by rw [hh]; rfl))
    have hscript := h.script
    rw [hh, List.map_cons] at hscript
    have hrest := waitsForCommands_tail hscript
    have herase : s.eraseGaps.host = { e with gap := 0 } :: eraseGapsOf rest := by rw [eraseGaps_host, hh]; rfl
    rw [step_host herase (hostTurn_idle (s := s.eraseGaps) _ hidle)]
    obtain ⟨wa, hop, rfl⟩ | ⟨d, hop, hexec⟩ | ⟨wa, d, hop, hwa, rfl⟩ | ⟨hop, rfl⟩ | ⟨hop, rfl⟩ := hmove <;>
      simp only [hop]
    · exact ⟨rfl, hrest, fun hbusy => absurd hidle hbusy⟩
    · obtain rfl := Host.Outcome.next.inj ((exec_command_idle (s := s.setHost rest) d hidle).symm.trans hexec)
      have hhost := commandEffect_host (s.setHost rest) (decodeCommand d)
      rw [if_true, exec_command_idle (s := { s.eraseGaps with host := eraseGapsOf rest }) d hidle,
        eraseGaps_of_host hhost, ← commandEffect_setHost]
      refine ⟨rfl, ?_, fun _ => ?_⟩ <;> rw [hhost]
      · exact hrest
      · exact waitsForCommands_command (hop ▸ hscript)
    · have hhost := busWrite_host (s.setHost rest) wa d
      rw [if_neg hwa]
      refine ⟨?_, ?_, fun hbusy => absurd ((busWrite_phase (s.setHost rest) wa d).trans hidle) hbusy⟩
      · exact congrArg Host.Outcome.next
          ((busWrite_setHost (s.setHost rest) _ wa d).trans (eraseGaps_of_host hhost).symm)
      · exact (congrArg (fun es => waitsForCommands (es.map HostEvent.op)) hhost).trans hrest
    · exact ⟨rfl, hrest, fun hbusy => absurd hidle hbusy⟩
    · exact ⟨rfl, hrest, fun hbusy => absurd rfl hbusy⟩

/-- Settles O57: without its gaps a script that honours every `WAIT` runs step for step as with them. -/
theorem interleavingNeverMatters : Obligations.InterleavingNeverMatters := by
  intro s t hidle herase hwaits k s' hrun
  have hops (u : State) : u.eraseGaps.host.map HostEvent.op = u.host.map HostEvent.op := by
    rw [eraseGaps_host, List.map_map]
    rfl
  have hidle' : t.phase = .idle := (congrArg State.phase herase).symm.trans hidle
  have hs : Honours s := ⟨hwaits, fun hbusy => absurd hidle hbusy⟩
  have ht : Honours t := ⟨by rw [← hops t, ← herase, hops s]; exact hwaits, fun hbusy => absurd hidle' hbusy⟩
  obtain ⟨t', hrun', -, -, heq⟩ := runsTo_lockstep
    (R := fun s t => Honours s ∧ Honours t ∧ s.eraseGaps = t.eraseGaps)
    (fun {s t u v} ⟨hs, ht, heq⟩ hu hv => by
      obtain ⟨hsu, hu'⟩ := step_eraseGaps hs hu
      obtain ⟨htv, hv'⟩ := step_eraseGaps ht hv
      exact ⟨hu', hv', Host.Outcome.next.inj (hsu.symm.trans ((congrArg step heq).trans htv))⟩) k ⟨hs, ht, herase⟩ hrun
  exact ⟨t', hrun', heq⟩

end Sys2Proof.Machine
end

section
/-! The script `NEW`: its writes load the staging registers, and the `INIT` it starts constructs exactly that engine
(R81, R162). -/

namespace Sys2Proof.Machine

/-! ## Register writes of an idle engine (R49, R53) -/

/-- The state after the register writes `ws`. -/
def loadAll (ws : List (WordIndex × BusWord)) (s : State) : State :=
  ws.foldl (fun s w => writeRegister w.1 w.2 s) s

theorem writeRegister_phase (wa : WordIndex) (d : BusWord) (s : State) : (writeRegister wa d s).phase = s.phase := by
  rw [writeRegister_frame]

theorem writeRegister_setHost (wa : WordIndex) (d : BusWord) (s : State) (es : List HostEvent) :
    writeRegister wa d (s.setHost es) = (writeRegister wa d s).setHost es := by
  unfold writeRegister
  split <;> rfl

theorem loadAll_cons (w : WordIndex × BusWord) (ws : List (WordIndex × BusWord)) (s : State) :
    loadAll (w :: ws) s = loadAll ws (writeRegister w.1 w.2 s) := rfl

theorem loadAll_append (ws ws' : List (WordIndex × BusWord)) (s : State) :
    loadAll (ws ++ ws') s = loadAll ws' (loadAll ws s) := by
  rw [loadAll, List.foldl_append]
  rfl

theorem runsTo_writes (ws : List (WordIndex × BusWord)) (hws : ∀ w ∈ ws, w.1 ≠ Reg.cmd) (rest : List HostEvent)
    {s : State} (hidle : s.phase = .idle)
    (hh : s.host = Script.events (ws.map fun w => .write w.1 w.2) ++ rest) :
    RunsTo ws.length s (loadAll ws (s.setHost rest)) := by
  induction ws generalizing s with
  | nil => exact (runsTo_zero _ _).mpr (by rw [← show s.host = rest from hh]; rfl)
  | cons w ws ih =>
    obtain ⟨es, hes⟩ : ∃ es, es = Script.events (ws.map fun w => .write w.1 w.2) ++ rest := ⟨_, rfl⟩
    have hcons : s.host = { gap := 0, op := .write w.1 w.2 } :: es := by rw [hh, hes]; rfl
    have hstep : step s = .next (writeRegister w.1 w.2 (s.setHost es)) :=
      step_idle_write hcons hidle (hws w List.mem_cons_self)
    have hrun := ih (fun w' hmem => hws w' (List.mem_cons_of_mem w hmem)) (s := writeRegister w.1 w.2 (s.setHost es))
      ((writeRegister_phase w.1 w.2 (s.setHost es)).trans hidle)
      ((congrArg State.host (writeRegister_setHost w.1 w.2 s es)).trans hes)
    rw [← writeRegister_setHost] at hrun
    exact (runsTo_succ hstep).mpr hrun

/-! ## Loading a key (R55, R81) -/

/-- Byte `i` of a little-endian integer. -/
theorem byteOf_fromLE {bs : List Byte} {i : Nat} (h : i < bs.length) : byteOf (fromLE bs) i = bs[i] := by
  induction bs generalizing i with
  | nil => contradiction
  | cons b bs ih =>
    have hb : b.toNat < 256 := b.isLt
    cases i with
    | zero =>
      apply BitVec.eq_of_toNat_eq
      rw [byteOf_toNat, fromLE_cons, List.getElem_cons_zero]
      omega
    | succ i =>
      rw [byteOf_succ, fromLE_cons, show (b.toNat + 256 * fromLE bs) / 256 = fromLE bs by omega]
      exact ih (Nat.lt_of_succ_lt_succ h)

/-- Word `j` of a key holds its bytes `4j` to `4j + 3`. -/
theorem byteOf_keyWord (key : List Byte) {i : Nat} (h : i < key.length) :
    byteOf (Script.keyWord key (i / 4)).toNat (i % 4) = key[i] := by
  have hlen : i % 4 < ((key.drop (4 * (i / 4))).take 4).length := by
    rw [List.length_take, List.length_drop]
    omega
  have hfit : fromLE ((key.drop (4 * (i / 4))).take 4) < 2 ^ 32 :=
    (fromLE_lt _).trans_le ((Nat.pow_le_pow_right (by decide) (List.length_take_le 4 _)).trans (by decide))
  rw [Script.keyWord, BitVec.toNat_ofNat, Nat.mod_eq_of_lt hfit, byteOf_fromLE hlen, List.getElem_take,
    List.getElem_drop]
  simp only [Nat.div_add_mod]

/-- The key bytes after the words `js` of `key` have been written. -/
def loadKey (key : List Byte) (js : List Nat) (k : Bytes Config.keyMax) : Bytes Config.keyMax :=
  js.foldl (fun k j => putKeyWord k j (Script.keyWord key j)) k

theorem loadKey_cons (key : List Byte) (j : Nat) (js : List Nat) (k : Bytes Config.keyMax) :
    loadKey key (j :: js) k = loadKey key js (putKeyWord k j (Script.keyWord key j)) := by
  simp only [loadKey, List.foldl_cons]

/-- Of the words written in ascending order, each byte is that of the key. -/
theorem getElem_loadKey (key : List Byte) (k : Bytes Config.keyMax) {n i : Nat} (hi : i < key.length)
    (hn : i < 4 * n) (hmax : i < Config.keyMax) : (loadKey key (List.range n) k)[i] = key[i] := by
  induction n with
  | zero => omega
  | succ n ih =>
    simp only [loadKey, List.range_succ, List.foldl_concat]
    rw [getElem_putKeyWord]
    split
    next hlast => rw [← hlast, byteOf_keyWord key hi]
    next hlast => exact ih (by omega)

theorem loadAll_key (key : List Byte) (js : List Nat) (hjs : ∀ j ∈ js, j < 8) (s : State) :
    loadAll (js.map fun j => (Reg.key j, Script.keyWord key j)) s = { s with key := loadKey key js s.key } := by
  induction js generalizing s with
  | nil => rfl
  | cons j js ih =>
    have hj := hjs j List.mem_cons_self
    rw [List.map_cons, loadAll_cons, writeRegister_key hj, ih fun j' hmem => hjs j' (List.mem_cons_of_mem j hmem),
      loadKey_cons]

/-! ## The writes of `NEW` (R81) -/

/-- The register writes of `NEW`, in their order. -/
def newWrites (key : List Byte) (rounds radix width : Nat) : List (WordIndex × BusWord) :=
  ((Reg.keylen, BitVec.ofNat Config.busW key.length) ::
    (List.range ((key.length + 3) / 4)).map fun j => (Reg.key j, Script.keyWord key j)) ++
  [(Reg.rounds, Script.slice rounds 0), (Reg.radixLo, Script.slice radix 0), (Reg.radixHi, Script.slice radix 1),
    (Reg.width, Script.slice width 0)]

theorem new_eq (key : List Byte) (rounds radix width : Nat) :
    Script.new key rounds radix width =
      (newWrites key rounds radix width).map (fun w => .write w.1 w.2) ++ [Script.init, .wait, .read Reg.status] := by
  simp [Script.new, newWrites, Script.ldKey, Script.ldRounds, Script.ldRadix, Script.ldWidth]

theorem newWrites_ne_cmd {key : List Byte} (hlen : key.length ≤ 32) (rounds radix width : Nat) :
    ∀ w ∈ newWrites key rounds radix width, w.1 ≠ Reg.cmd := by
  intro w hw
  simp only [newWrites, List.mem_append, List.mem_cons, List.mem_map, List.mem_range, List.not_mem_nil, or_false] at hw
  obtain (rfl | ⟨j, hj, rfl⟩) | rfl | rfl | rfl | rfl := hw
  · exact (by decide : Reg.keylen ≠ Reg.cmd)
  · exact key_ne_cmd (by omega)
  · exact (by decide : Reg.rounds ≠ Reg.cmd)
  · exact (by decide : Reg.radixLo ≠ Reg.cmd)
  · exact (by decide : Reg.radixHi ≠ Reg.cmd)
  · exact (by decide : Reg.width ≠ Reg.cmd)

/-- The state with the writes of `NEW` done. -/
def newLoaded (s : State) (key : List Byte) (rounds radix width : Nat) : State :=
  { s with
    keylen := putWord s.keylen 0 (BitVec.ofNat Config.busW key.length)
    key := loadKey key (List.range ((key.length + 3) / 4)) s.key
    rounds := putWord s.rounds 0 (Script.slice rounds 0)
    radix := loadWords radix (List.range 2) s.radix
    width := putWord s.width 0 (Script.slice width 0) }

theorem loadAll_newWrites {key : List Byte} (hlen : key.length ≤ 32) (rounds radix width : Nat) (s : State) :
    loadAll (newWrites key rounds radix width) s = newLoaded s key rounds radix width := by
  have hjs : ∀ j ∈ List.range ((key.length + 3) / 4), j < 8 := by
    intro j hj
    rw [List.mem_range] at hj
    omega
  rw [newWrites, loadAll_append, loadAll_cons (Reg.keylen, _), loadAll_key key _ hjs]
  rfl

/-! ## What the writes stage -/

/-- The two words of a value of `RADIX`'s width make that value, whatever was there before. -/
theorem loadWords_two {v : Nat} (hv : v < 2 ^ Config.radixW) (x : BitVec Config.radixW) :
    (loadWords v (List.range 2) x).toNat = v := by
  have hword {j : Nat} (hj : j < 2) :
      wordOf (loadWords v (List.range 2) x) j = wordOf (BitVec.ofNat Config.radixW v) j := by
    rw [wordOf_loadWords v x hj (by decide), wordOf_ofNat v hv]
  rw [toNat_eq_two_words _ (by decide), hword (by decide), hword (by decide),
    ← toNat_eq_two_words (BitVec.ofNat Config.radixW v) (by decide), BitVec.toNat_ofNat, Nat.mod_eq_of_lt hv]

/-- A register of at most one word, written with a value that fits it. -/
theorem putWord_narrow_toNat {n v : Nat} (hn : n ≤ 32) (hv : v < 2 ^ n) (x : BitVec n) :
    (putWord x 0 (BitVec.ofNat Config.busW v)).toNat = v := by
  have hword : v < 2 ^ 32 := hv.trans_le (Nat.pow_le_pow_right (by decide) hn)
  rw [putWord_zero_narrow _ _ hn, BitVec.toNat_setWidth, BitVec.toNat_ofNat, Nat.mod_eq_of_lt hword,
    Nat.mod_eq_of_lt hv]

theorem slice_zero (v : Nat) : Script.slice v 0 = BitVec.ofNat Config.busW v := by
  rw [Script.slice, Nat.mul_zero, Nat.pow_zero, Nat.div_one]

/-- The arguments of `NEW` that construct an engine: a key of a legal length, and parameters within capacity. -/
structure NewArgs (key : List Byte) (rounds radix width : Nat) : Prop where
  keylen : key.length = 16 ∨ key.length = 24 ∨ key.length = 32
  rounds_pos : 1 ≤ rounds
  rounds_lt : rounds < 2 ^ 32
  radix_ge : 2 ≤ radix
  radix_lt : radix < 2 ^ 64
  width_pos : 1 ≤ width
  width_lt : width < 2 ^ 8
  capacity : radix ^ halfUp width ≤ 2 ^ 64

section
variable {key : List Byte} {rounds radix width : Nat} (h : NewArgs key rounds radix width) (s : State)
include h

theorem NewArgs.length_le : key.length ≤ 32 := by
  have hlen := h.keylen
  omega

/-- The staging registers hold the arguments. -/
theorem newLoaded_staging :
    (newLoaded s key rounds radix width).keylen.toNat = key.length ∧
    (newLoaded s key rounds radix width).rounds.toNat = rounds ∧
    (newLoaded s key rounds radix width).radix.toNat = radix ∧
    (newLoaded s key rounds radix width).width.toNat = width := by
  have hlen := h.length_le
  simp only [newLoaded, slice_zero]
  exact ⟨putWord_narrow_toNat (by decide) (hlen.trans_lt (by decide)) _,
    putWord_narrow_toNat (by decide) h.rounds_lt _, loadWords_two h.radix_lt _,
    putWord_narrow_toNat (by decide) h.width_lt _⟩

theorem newLoaded_key {i : Nat} (hi : i < key.length) :
    (newLoaded s key rounds radix width).key[i]'(hi.trans_le h.length_le) = key[i] :=
  getElem_loadKey key s.key hi (by omega) (hi.trans_le h.length_le)

/-- What `Derive` answers to the staged parameters. -/
theorem newLoaded_derived :
    (newLoaded s key rounds radix width).derived = .ok {
      pw0 := halfUp width, pw1 := halfDown width, mod0 := radix ^ halfUp width, mod1 := radix ^ halfDown width
      blk := radix ^ halfUp width * radix ^ halfDown width
      path := pathOf (radix ^ halfUp width * radix ^ halfDown width) } := by
  obtain ⟨hkeylen, hrounds, hradix, hwidth⟩ := newLoaded_staging h s
  have hlegal := And.intro h.radix_ge (And.intro h.width_pos h.rounds_pos)
  rw [State.derived, hkeylen, hrounds, hradix, hwidth]
  exact derive_of_legal (by simpa [Config.keylens] using h.keylen) (by omega) (Nat.not_lt_of_le h.capacity)

end

/-! ## The script, run (R81, R91) -/

theorem step_init {s : State} {rest : List HostEvent} (hidle : s.phase = .idle)
    (hh : s.host = { gap := 0, op := Script.init } :: rest) :
    step s = .next { s with phase := .iKeychk, host := rest } :=
  (step_host hh (hostTurn_idle _ hidle)).trans (exec_init_idle (s := { s with host := rest }) hidle)

theorem initResult_host (s : State) : (initResult s).host = s.host := by
  cases h : s.derived with
  | error e => rw [initResult_of_error h]
  | ok d => rw [initResult_of_ok h]

/-- The state in which the `INIT` of `NEW` is accepted. -/
def newAccepted (s : State) (key : List Byte) (rounds radix width : Nat) : State :=
  { newLoaded s key rounds radix width with phase := .iKeychk, host := Script.events [.wait, .read Reg.status] }

section
variable {s : State} {key : List Byte} {rounds radix width : Nat}

theorem newAccepted_runsTo (hlen : key.length ≤ 32) (hidle : s.phase = .idle)
    (hhost : s.host = Script.events (Script.new key rounds radix width)) :
    ∃ k, RunsTo k s (newAccepted s key rounds radix width) := by
  rw [new_eq, Script.events, List.map_append] at hhost
  have hload := runsTo_writes _ (newWrites_ne_cmd hlen rounds radix width) _ hidle hhost
  rw [loadAll_newWrites hlen] at hload
  exact ⟨_, hload.add (runsTo_one (step_init hidle rfl))⟩

/-- `NEW` ends with the result of its `INIT`, whatever the reads after it have recorded. -/
theorem new_runsTo (hlen : key.length ≤ 32) (hidle : s.phase = .idle)
    (hhost : s.host = Script.events (Script.new key rounds radix width)) :
    ∃ k t rs, RunsTo k s t ∧
      SameButScratch t { initResult (newAccepted s key rounds radix width) with host := [], reads := rs } := by
  obtain ⟨k, haccept⟩ := newAccepted_runsTo hlen hidle hhost
  obtain ⟨k', t, hinit, ht, -⟩ := init_runsTo (s := newAccepted s key rounds radix width) _ (initInv_of_start rfl) rfl
    (hostWaits_wait _) (Nat.zero_add _)
  have hhost' : (initResult (newAccepted s key rounds radix width)).host = _ := initResult_host _
  obtain ⟨rs, hreads⟩ := runsTo_reads [.wait, .read Reg.status] (by simp) (ht.phase_eq.trans (initResult_phase _))
    (ht.host_eq.trans hhost')
  exact ⟨_, _, rs, (haccept.add hinit).add hreads,
    congrArg (fun u : State => { u with host := [], reads := rs }) ht⟩

end

/-! ## The engine that `NEW` constructs (R100, R162) -/

theorem activeKey_of_keepKey {t : State} {k : Bytes Config.keyMax} {key : List Byte} (hlen : key.length ≤ 32)
    (haKeylen : t.aKeylen.toNat = key.length) (haKey : t.aKey = keepKey k key.length)
    (hk : ∀ i (hi : i < key.length), k[i]'(hi.trans_le hlen) = key[i]) : t.activeKey = key := by
  refine List.ext_getElem (by rw [length_activeKey, haKeylen, Nat.min_eq_left hlen]) fun i hi hi' => ?_
  simp only [State.activeKey, List.getElem_take, Vector.getElem_toList, haKey, getElem_keepKey, if_pos hi', hk i hi']

section
variable {key : List Byte} {rounds radix width : Nat} (h : NewArgs key rounds radix width)
include h

/-- The derived values fit their registers. -/
theorem NewArgs.fits :
    (fit Config.widthW (halfUp width)).toNat = halfUp width ∧
    (fit Config.widthW (halfDown width)).toNat = halfDown width ∧
    (fit Config.modW (radix ^ halfUp width)).toNat = radix ^ halfUp width ∧
    (fit Config.modW (radix ^ halfDown width)).toNat = radix ^ halfDown width ∧
    (fit Config.blkW (radix ^ halfUp width * radix ^ halfDown width)).toNat = radix ^ width := by
  have hwidth := h.width_lt
  have hsum := halfUp_add_halfDown width
  have hcap0 := h.capacity
  have hcap1 : radix ^ halfDown width ≤ 2 ^ 64 :=
    (Nat.pow_le_pow_right (by have := h.radix_ge; omega) (halfDown_le_halfUp width)).trans hcap0
  refine ⟨fit_toNat (lt_of_le_of_lt (by omega) hwidth), fit_toNat (lt_of_le_of_lt (by omega) hwidth),
    fit_toNat (hcap0.trans_lt (by decide)), fit_toNat (hcap1.trans_lt (by decide)), ?_⟩
  rw [fit_toNat (mul_lt_of_le hcap0 hcap1), pow_halves]

end

/-- Settles O59: the writes of `NEW` stage its arguments, its `INIT` finds them legal, and what it commits is `Derive`
of them. -/
theorem newConstructsTheEngine : Obligations.NewConstructsTheEngine := by
  intro s key rounds radix width hidle hhost hkeylen hr1 hr2 hx1 hx2 hw1 hw2 hcap
  have h : NewArgs key rounds radix width := ⟨hkeylen, hr1, hr2, hx1, hx2, hw1, hw2, hcap⟩
  obtain ⟨k, t, rs, hrun, ht⟩ := new_runsTo h.length_le hidle hhost
  have hderived : (newAccepted s key rounds radix width).derived = _ := newLoaded_derived h s
  rw [initResult_of_ok hderived] at ht
  obtain ⟨-, ⟨hvalid, haKey, haKeylen, haRadix, haWidth, haRounds, hpw0, hpw1, hmod0, hmod1, hblksz, hpath⟩,
    ⟨hdout, herr, hlastop, hphase⟩, hended, -, hrequests⟩ := (sameButScratch_iff _ _).mp ht
  obtain ⟨hkeylenS, hroundsS, hradixS, hwidthS⟩ := newLoaded_staging h s
  obtain ⟨hfit0, hfit1, hfitM0, hfitM1, hfitB⟩ := h.fits
  have hlen : t.aKeylen.toNat = key.length := (congrArg BitVec.toNat haKeylen).trans hkeylenS
  have hkey : t.aKey = keepKey (newLoaded s key rounds radix width).key key.length :=
    haKey.trans (congrArg (keepKey _) hkeylenS)
  refine ⟨k, t, hrun, ⟨hended, hphase⟩, hvalid, herr, hlastop,
    activeKey_of_keepKey h.length_le hlen hkey fun i hi => newLoaded_key h s hi, hlen, fun i hi => ?_,
    (congrArg BitVec.toNat haRounds).trans hroundsS, (congrArg BitVec.toNat haRadix).trans hradixS,
    (congrArg BitVec.toNat haWidth).trans hwidthS, (congrArg BitVec.toNat hpw0).trans hfit0,
    (congrArg BitVec.toNat hpw1).trans hfit1, (congrArg BitVec.toNat hmod0).trans hfitM0,
    (congrArg BitVec.toNat hmod1).trans hfitM1, (congrArg BitVec.toNat hblksz).trans hfitB,
    hpath.trans (congrArg pathOf (pow_halves radix width)), hdout, hrequests⟩
  rw [hkey]
  exact (getElem_keepKey _ _ i.val i.isLt).trans (if_neg (Nat.not_lt_of_le hi))

end Sys2Proof.Machine
end
